-- ==== Sys2Proof/Word.lean ====
section
/-! DEFINITION. The words of the CORE and the integer readings the spec's rules use (00_scope.md R9, R10). -/

namespace Sys2Proof

/-- A 32-bit pattern: an opcode field, an operand field, a `PC` value (R8: `OPC_W`, `OPD_W`, `PC_W`). -/
abbrev Word32 := BitVec 32

/-- A 64-bit instruction word, `OPC : OPD` (30_encoding.md R80). -/
abbrev InstrWord := BitVec 64

/-- `uint(v)`: the unsigned value of a bit vector (R10). -/
abbrev uint {n : Nat} (v : BitVec n) : Nat := v.toNat

/-- `sint(v)`: the two's-complement value of a bit vector (R10). -/
abbrev sint {n : Nat} (v : BitVec n) : Int := v.toInt

/-- `bv_n(k)`: the n-bit vector whose unsigned value is `k mod 2^n` (R10). -/
abbrev bv (n : Nat) (k : Int) : BitVec n := BitVec.ofInt n k

/-- `sext_N(v)`: `v` extended to N bits with copies of its top bit (R10; no instruction uses it). -/
abbrev sext {n : Nat} (N : Nat) (v : BitVec n) : BitVec N := v.signExtend N

/-- `zext_N(v)`: `v` extended to N bits with zeros (R10; no instruction uses it). -/
abbrev zext {n : Nat} (N : Nat) (v : BitVec n) : BitVec N := v.setWidth N

end Sys2Proof
end

