-- ==== Sys2Proof/Assembly.lean ====
section
/-! DEFINITION. The two written forms of an instruction (30_encoding.md R88, R89), as data: the number pair of a
program file and the assembler line. Reading them from text is the host's (00_scope.md R5). -/

namespace Sys2Proof

/-- A non-blank line of a program file: `opcode operand` (R88; the document's `opcode: integer, operand: integer`,
R80). -/
structure NumberLine where
  opcode : Int
  operand : Int
deriving DecidableEq, Repr

/-- The nine mnemonics of R82. -/
inductive Mnemonic where
  | LOAD | ADD | STORE | SUB | IN | OUT | END | JMP | SKIPZ
deriving DecidableEq, Repr

/-- How a mnemonic is written: the nine names of R82, in upper case (R89). -/
def Mnemonic.spelling : Mnemonic → String
  | .LOAD => "LOAD" | .ADD => "ADD" | .STORE => "STORE" | .SUB => "SUB" | .IN => "IN"
  | .OUT => "OUT" | .END => "END" | .JMP => "JMP" | .SKIPZ => "SKIPZ"

/-- Whether the mnemonic is written with exactly one operand: LOAD, ADD, STORE, SUB and JMP are, IN, OUT, END
and SKIPZ are written without one (R89). -/
def Mnemonic.takesOperand : Mnemonic → Bool
  | .LOAD | .ADD | .STORE | .SUB | .JMP => true
  | .IN | .OUT | .END | .SKIPZ => false

/-- An assembler line: `MNEMONIC` or `MNEMONIC operand`, the operand a signed integer (R89). -/
structure AsmLine where
  mnemonic : Mnemonic
  operand : Option Int
deriving DecidableEq, Repr

/-- The assembler line as it is written, the operand in decimal (R89). -/
def AsmLine.text (l : AsmLine) : String :=
  match l.operand with
  | none => l.mnemonic.spelling
  | some d => l.mnemonic.spelling ++ " " ++ toString d

end Sys2Proof
end

