-- ==== Sys2Proof/Config.lean ====
section
/-! DEFINITION. The parameters of the hardware (00_scope.md R8) and the values `State.reset` takes for those the
spec leaves open. -/

namespace Sys2Proof

/-- `DS_SIZE`: the number of Data Store cells, addresses 0 to 9 (R8). -/
def Config.dsSize : Nat := 10

/-- `W` in `State.reset`: the spec's default (R8, D1). DESIGN CHOICE, unsafe: notes/assumptions/1.md. -/
def Config.resetWidth : Nat := 32

/-- `IBASE` in `State.reset`; the spec leaves it open (D4). DESIGN CHOICE, unsafe: notes/assumptions/2.md. -/
def Config.resetIbase : Word32 := 0

/-- `ICAP` in `State.reset`; the spec leaves it open (D5). DESIGN CHOICE, unsafe: notes/assumptions/3.md. -/
def Config.resetIcap : Nat := 2 ^ 31

/-- `ACC0` in `State.reset`; the spec leaves it open (D6). DESIGN CHOICE, unsafe: notes/assumptions/4.md. -/
def Config.resetAcc0 : BitVec Config.resetWidth := 0

/-- The parameters of one run, open in the spec (R8). `N` is the length of `imem`: the loaded words stand at
consecutive addresses from `ibase` (20_memory.md R53). -/
structure Launch where
  /-- `W`, the width of the Accumulator and of each Data Store cell. -/
  width : Nat
  /-- `IBASE`, the instruction address of the first loaded instruction. -/
  ibase : Word32
  /-- `ICAP`, the capacity of the Instruction Store in instructions. -/
  icap : Nat
  /-- `IMEM`, the loaded instruction words, at `IBASE`, `IBASE + 1`, ... -/
  imem : List InstrWord
  /-- `ACC0`, the value of the Accumulator at the start of the run. -/
  acc0 : BitVec width
  /-- `INPUT`, the values the host has presented by the start of the run (42_io.md R162). -/
  input : List (BitVec width)
deriving DecidableEq, Repr

/-- The launch of `State.reset`: nothing loaded (N = 0), nothing presented, the open parameters at the values
named above (notes/assumptions/14.md). -/
def Config.resetLaunch : Launch where
  width := Config.resetWidth
  ibase := Config.resetIbase
  icap := Config.resetIcap
  imem := []
  acc0 := Config.resetAcc0
  input := []

end Sys2Proof
end

