-- ==== Sys2Proof/Syntax.lean ====
section
/-! DEFINITION. The instructions: one constructor per row of spec/opcode_table.json (30_encoding.md R82). -/

namespace Sys2Proof

/-- The closed variant of R83 with the 32-bit operand field `OPD` of each instruction. IN, OUT, END and SKIPZ
carry the operand they ignore (R81), so that the decoded form loses no bit of the word; this type is also what
the transient register `DIR` holds, a tag and 32 bits (10_state.md R34). -/
inductive Instr where
  | load (opd : Word32)   -- 1: `OPD` is a data address
  | add (opd : Word32)    -- 2: `OPD` is a data address
  | store (opd : Word32)  -- 3: `OPD` is a data address
  | sub (opd : Word32)    -- 4: `OPD` is a data address
  | in_ (opd : Word32)    -- 5: `OPD` is unused
  | out (opd : Word32)    -- 6: `OPD` is unused
  | end_ (opd : Word32)   -- 7: `OPD` is unused
  | jmp (opd : Word32)    -- 8: `OPD` is an instruction address
  | skipz (opd : Word32)  -- 9: `OPD` is unused
deriving DecidableEq, Repr

end Sys2Proof
end

