-- ==== Sys2Proof/WellFormed.lean ====
section
/-! DEFINITION. What may stand in the model's input: the constraints on a launch (00_scope.md R8), the written
forms of an instruction (30_encoding.md R80, R89), and the instructions themselves, all of which are legal
(R85). -/

namespace Sys2Proof

/-- Every instruction is well formed, whatever its operand: an out-of-range data address is legal to decode and
faults at execute, every JMP target is legal, and an unused operand is ignored (R85).
notes/assumptions/16.md. -/
def Instr.wellFormed : Instr → Bool
  | .load _ | .add _ | .store _ | .sub _ => true
  | .in_ _ | .out _ | .end_ _ | .skipz _ => true
  | .jmp _ => true

/-- The constraints of R8: `W >= 1`, `N <= ICAP`, `IBASE + ICAP <= 2^31`. -/
def Launch.wellFormed (l : Launch) : Bool :=
  decide (1 ≤ l.width) && decide (l.imem.length ≤ l.icap) && decide (uint l.ibase + l.icap ≤ 2 ^ 31)

/-- An integer that a 32-bit field holds: `[-2^31, 2^31)` (R80, R89). -/
def fits32 (k : Int) : Bool := decide (-(2 ^ 31) ≤ k) && decide (k < 2 ^ 31)

/-- R80: the pair `opcode operand` maps to a word for integers in `[-2^31, 2^31)`. -/
def NumberLine.wellFormed (l : NumberLine) : Bool := fits32 l.opcode && fits32 l.operand

/-- R89: exactly one operand where the mnemonic takes one, none where it takes none, and the operand in
`[-2^31, 2^31)`. -/
def AsmLine.wellFormed (l : AsmLine) : Bool :=
  match l.operand with
  | none => !l.mnemonic.takesOperand
  | some d => l.mnemonic.takesOperand && fits32 d

end Sys2Proof
end

