-- ==== Sys2Proof/Decode.lean ====
section
/-! DEFINITION. The decoder, total on any 64-bit word (30_encoding.md R80 to R84; 40_cycle.md R104), and the
encoder, from the same table. -/

namespace Sys2Proof

/-- Why a word is no instruction. -/
inductive DecodeError where
  /-- The opcode field is outside 1 to 9 (R84); the decoder raises `Fatal(UnknownOpcode, OPC)` with it (R104). -/
  | unknownOpcode (opc : Word32)
deriving DecidableEq, Repr

/-- `OPC = w[63:32]` (R80). -/
def opcField (w : InstrWord) : Word32 := w.extractLsb' 32 32

/-- `OPD = w[31:0]` (R80). -/
def opdField (w : InstrWord) : Word32 := w.extractLsb' 0 32

/-- `w = OPC : OPD` (R80). -/
def joinFields (opc opd : Word32) : InstrWord := opc ++ opd

/-- The opcode table of R82, on the whole 32-bit field `OPC` (R83); every other value is refused (R84). -/
def decodeFields (opc opd : Word32) : Except DecodeError Instr :=
  if opc = 0x00000001#32 then .ok (.load opd)
  else if opc = 0x00000002#32 then .ok (.add opd)
  else if opc = 0x00000003#32 then .ok (.store opd)
  else if opc = 0x00000004#32 then .ok (.sub opd)
  else if opc = 0x00000005#32 then .ok (.in_ opd)
  else if opc = 0x00000006#32 then .ok (.out opd)
  else if opc = 0x00000007#32 then .ok (.end_ opd)
  else if opc = 0x00000008#32 then .ok (.jmp opd)
  else if opc = 0x00000009#32 then .ok (.skipz opd)
  else .error (.unknownOpcode opc)

/-- The decoder: it splits the word into its two fields and maps the opcode (R104). -/
def decode (w : InstrWord) : Except DecodeError Instr := decodeFields (opcField w) (opdField w)

/-- The instruction read from an instruction whose bits are `w`, numbered as spec/opcode_table.json numbers them;
bits at and above `nbits` are 0. One 64-bit word is the whole instruction (R86), and the word is not made of
bytes (20_memory.md R57), so no byte order enters. -/
def decodeTableWord (nbits w : Nat) : Option Instr :=
  match decode (BitVec.ofNat 64 (w % 2 ^ nbits)) with
  | .ok i => some i
  | .error _ => none

/-- The opcode of an instruction (R82). -/
def Instr.opcode : Instr → Word32
  | .load _ => 0x00000001#32
  | .add _ => 0x00000002#32
  | .store _ => 0x00000003#32
  | .sub _ => 0x00000004#32
  | .in_ _ => 0x00000005#32
  | .out _ => 0x00000006#32
  | .end_ _ => 0x00000007#32
  | .jmp _ => 0x00000008#32
  | .skipz _ => 0x00000009#32

/-- The operand field of an instruction (R81). -/
def Instr.operand : Instr → Word32
  | .load opd | .add opd | .store opd | .sub opd => opd
  | .in_ opd | .out opd | .end_ opd | .jmp opd | .skipz opd => opd

/-- The word of an instruction (R80, R82). -/
def encode (i : Instr) : InstrWord := joinFields i.opcode i.operand

/-- The number of a mnemonic in R82. -/
def Mnemonic.opcode : Mnemonic → Int
  | .LOAD => 1 | .ADD => 2 | .STORE => 3 | .SUB => 4 | .IN => 5
  | .OUT => 6 | .END => 7 | .JMP => 8 | .SKIPZ => 9

/-- The instruction a mnemonic and an operand field stand for (R82). -/
def Mnemonic.instr (m : Mnemonic) (opd : Word32) : Instr :=
  match m with
  | .LOAD => .load opd | .ADD => .add opd | .STORE => .store opd | .SUB => .sub opd | .IN => .in_ opd
  | .OUT => .out opd | .END => .end_ opd | .JMP => .jmp opd | .SKIPZ => .skipz opd

/-- R80: `OPC = bv_32(opcode)` and `OPD = bv_32(operand)`, for integers in `[-2^31, 2^31)`; none for a pair that
does not fit, which is the host's matter (R88). -/
def NumberLine.word (l : NumberLine) : Option InstrWord :=
  if l.wellFormed then some (joinFields (bv 32 l.opcode) (bv 32 l.operand)) else none

/-- The operand value an assembler line puts in `OPD`: 0 where it is written without one (R89). -/
def AsmLine.operandValue (l : AsmLine) : Int := l.operand.getD 0

/-- R90: the word for assembler text `M d` is `bv_32(opcode(M)) : bv_32(d)`; none for a line that R89 does not
allow. -/
def AsmLine.word (l : AsmLine) : Option InstrWord :=
  if l.wellFormed then some (joinFields (bv 32 l.mnemonic.opcode) (bv 32 l.operandValue)) else none

end Sys2Proof
end

