-- ==== Sys2Proof/Machine/State.lean ====
section
/-! DEFINITION. The state of the CORE, all of it (10_state.md), the reasons a step of the model can stop, and the
state after reset (70_reset_and_hazards.md R240, R241). -/

namespace Sys2Proof.Machine

/-- `RUN`, the run state: RUNNING, HALTED or ERRORED (10_state.md R30). The value 3 of the two-bit register is
never written and is no constructor here (notes/assumptions/13.md). -/
inductive RunState where
  | running
  | halted
  | errored
deriving DecidableEq, Repr

/-- The encoding of `RUN`, which the host reads: 0, 1, 2 (R30). -/
def RunState.code : RunState → BitVec 2
  | .running => 0
  | .halted => 1
  | .errored => 2

/-- `FAULT_CAUSE`: which fatal condition ended the run (10_state.md R31). -/
inductive FaultCause where
  | none
  | invalidAddress
  | addressOutOfRange
  | unknownOpcode
deriving DecidableEq, Repr

/-- The encoding of `FAULT_CAUSE`, which the host reads: 0 to 3 (R31). -/
def FaultCause.code : FaultCause → BitVec 2
  | .none => 0
  | .invalidAddress => 1
  | .addressOutOfRange => 2
  | .unknownOpcode => 3

/-- The reasons the MODEL stops. The three fatal conditions of the CORE are not among them: taking one is a next
state (60_exceptions.md R205; notes/assumptions/8.md). -/
inductive Fault where
  /-- Raised by the data-memory port (`State.dmRead`, `State.dmWrite`) when it is driven with an address outside
  0 to 9: 20_memory.md R55, "If `dm_addr` were ever outside `0..9` the model has no meaning for it, and a model
  should fault". Safe; the range check of R52 comes first, so no step reaches it. -/
  | dataPortAddress (addr : BitVec 4)
deriving DecidableEq, Repr

/-- The reasons the model gives no meaning. -/
inductive Refusal where
  /-- Raised by an arm of `exec` whose instruction has no meaning yet. Safe; no arm raises it. -/
  | notModelled (mnemonic : String)
  /-- Raised by `State.applyReset` while IN waits: reset in the middle of an instruction is refused
  (93_implementation_defined.md; 70_reset_and_hazards.md R242). Safe; no step raises it. -/
  | resetDuringWait
  /-- Raised by `State.loadStore` while a run is RUNNING: the store is never written during a run
  (10_state.md R36; 60_exceptions.md R223). Safe; no step raises it. -/
  | loadDuringRun
  /-- Raised by `State.loadStore` for more than `ICAP` words: 93_implementation_defined.md, "refuse. Out of scope. A
  launch has `N <= ICAP` well-formed words" (00_scope.md R8; notes/assumptions/21.md). Safe; no step raises it. -/
  | loadExceedsCapacity
  /-- Raised by `State.loadStore` for a base with `IBASE + ICAP > 2^31`, outside the constraint of 00_scope.md R8
  (notes/assumptions/21.md). Safe; no step raises it. -/
  | loadBaseTooHigh
deriving DecidableEq, Repr

/-- A data memory: a list of (address, cell) pairs, addresses strictly rising, below 10, no entry 0. An unlisted
address reads 0 (10_state.md R35; 20_memory.md R63). The unit is the W-bit cell: the Data Store is not
byte-addressed (20_memory.md R57; notes/assumptions/9.md). -/
abbrev Memory (w : Nat) := List (Nat × BitVec w)

/-- Everything the spec gives the machine (10_state.md; 70_reset_and_hazards.md R241), with the parameters of
00_scope.md R8 that stay fixed during a run. -/
structure State where
  /-- `W`, the width of `ACC` and of each cell; fixed during a run (R8). -/
  width : Nat
  /-- `ICAP`, the capacity of the Instruction Store; fixed during a run (R8). -/
  icap : Nat
  /-- `ld_base`, the static input that carries `IBASE` (20_memory.md R54). -/
  ldBase : Word32
  /-- The Instruction Store: the loaded words, at `ldBase`, `ldBase + 1`, ... (10_state.md R36; 20_memory.md R53). -/
  imem : List InstrWord
  /-- `ACC`, the Accumulator (R20). -/
  acc : BitVec width
  /-- `PC`, the ProgramCounter (R23). -/
  pc : Word32
  /-- `DS`, the Data Store (R35). -/
  ds : Memory width
  /-- `RUN`, the run state (R30). -/
  run : RunState
  /-- `FAULT_CAUSE` (R31). -/
  faultCause : FaultCause
  /-- `FAULT_INFO` (R32). -/
  faultInfo : Word32
  /-- `MAR`, the address latch (R34). -/
  mar : Word32
  /-- `IR`, the fetched-instruction holder (R34). -/
  ir : InstrWord
  /-- `DIR`, the decoded-instruction holder: a tag and 32 bits (R34). -/
  dir : Instr
  /-- The IN wait (R37): the instruction at `PC` is an IN that was attempted and found no input value. -/
  inWait : Bool
  /-- The values of `INPUT` the host has presented and no IN has taken, the next one first (42_io.md R162). -/
  input : List (BitVec width)
  /-- `OUTPUT`: the values emitted in this run, the first one first (42_io.md R163). -/
  output : List (BitVec width)
deriving DecidableEq, Repr

/-- The state right after reset for a launch (70_reset_and_hazards.md R240, R241), the host having loaded the
Instruction Store (R244); the launch is taken to be one of `Launch.wellFormed`, as statements about it say
(notes/assumptions/21.md). `MAR`, `IR` and `DIR` are unspecified there: DESIGN CHOICE, notes/assumptions/5.md. -/
def State.start (l : Launch) : State where
  width := l.width
  icap := l.icap
  ldBase := l.ibase
  imem := l.imem
  acc := l.acc0
  pc := l.ibase
  ds := []
  run := .running
  faultCause := .none
  faultInfo := 0
  mar := 0
  ir := 0
  dir := .load 0
  inWait := false
  input := l.input
  output := []

/-- The machine right after reset, with nothing loaded and nothing presented (notes/assumptions/14.md). -/
def State.reset : State := State.start Config.resetLaunch

end Sys2Proof.Machine
end

