-- ==== Sys2Proof/Machine/Flags.lean ====
section
/-! DEFINITION. The CORE has no flags (10_state.md R29). The one condition an instruction tests is that the
Accumulator is zero. -/

namespace Sys2Proof.Machine

/-- `ACC == 0`: all W bits are zero (43_control.md R184; 00_scope.md R11). -/
def State.accIsZero (s : State) : Bool := s.acc == 0

end Sys2Proof.Machine
end

