-- ==== Sys2Proof/Machine/Operands.lean ====
section
/-! DEFINITION. The operand forms (30_encoding.md R81, R87): a data address, an instruction address, and an unused
field. There is no immediate and no other addressing mode. -/

namespace Sys2Proof.Machine

/-- The data-address check of 20_memory.md R52 and 41_data_memory.md R134: `0 <= sint(OPD) <= 9`, never wrapped. -/
def dataAddressLegal (opd : Word32) : Bool := decide (0 ≤ sint opd) && decide (sint opd ≤ 9)

/-- A data address: when the check passes it drives `dm_addr = OPD[3:0]` (20_memory.md R55; 30_encoding.md R87). -/
def dataAddress (opd : Word32) : Option (BitVec 4) :=
  if dataAddressLegal opd then some (opd.extractLsb' 0 4) else none

/-- An instruction address: the 32-bit pattern of `OPD`, unchanged and unchecked (30_encoding.md R87;
43_control.md R182). -/
def jumpTarget (opd : Word32) : Word32 := opd

end Sys2Proof.Machine
end

