-- ==== Sys2Proof/Machine/Ops.lean ====
section
/-! DEFINITION. The named operations over memory, registers and streams, and taking a fatal condition. -/

namespace Sys2Proof.Machine

/-! ## Data memory as a canonical list -/

/-- The cell at an address; an unlisted address reads 0 (10_state.md R35; 20_memory.md R63). -/
def Memory.read {w : Nat} (m : Memory w) (a : Nat) : BitVec w :=
  match m with
  | [] => 0
  | (b, v) :: rest => if b = a then v else Memory.read rest a

/-- The list without its entries at an address. -/
def Memory.remove {w : Nat} (m : Memory w) (a : Nat) : Memory w := m.filter fun e => e.1 != a

/-- The list with a pair put before the first larger address. -/
def Memory.insert {w : Nat} (m : Memory w) (a : Nat) (v : BitVec w) : Memory w :=
  match m with
  | [] => [(a, v)]
  | e :: rest => if a < e.1 then (a, v) :: e :: rest else e :: Memory.insert rest a v

/-- The memory with one cell changed (20_memory.md R60); writing 0 removes the entry, so that equal memories are
equal lists. -/
def Memory.write {w : Nat} (m : Memory w) (a : Nat) (v : BitVec w) : Memory w :=
  if v = 0 then m.remove a else (m.remove a).insert a v

/-- The canonical form, from a lower bound on the addresses. -/
def Memory.wfFrom {w : Nat} (lo : Nat) : Memory w → Bool
  | [] => true
  | (a, v) :: rest =>
    decide (lo ≤ a) && decide (a < Config.dsSize) && decide (v ≠ 0) && Memory.wfFrom (a + 1) rest

/-- The canonical form: addresses strictly rising and below 10, no entry 0. -/
def Memory.wf {w : Nat} (m : Memory w) : Bool := Memory.wfFrom 0 m

/-- `DS[a]` (00_scope.md R12). -/
def State.cell (s : State) (a : Nat) : BitVec s.width := Memory.read s.ds a

/-- `DS[a]` as a number: the view that compares cells of two states. -/
def State.cellNat (s : State) (a : Nat) : Nat := uint (s.cell a)

/-- `ACC` as a number: the view that compares the Accumulators of two states. -/
def State.accNat (s : State) : Nat := uint s.acc

/-! ## The data-memory port (20_memory.md R55) -/

/-- `MemRead(a, 1)`: a read transaction; nothing changes. An address outside 0 to 9 faults. -/
def State.dmRead (s : State) (a : BitVec 4) : Except Fault (BitVec s.width) :=
  if uint a < Config.dsSize then .ok (s.cell (uint a)) else .error (.dataPortAddress a)

/-- `MemWrite(a, 1, v)`: a write transaction; afterwards `DS[a] = v`. An address outside 0 to 9 faults. -/
def State.dmWrite (s : State) (a : BitVec 4) (v : BitVec s.width) : Except Fault State :=
  if uint a < Config.dsSize then .ok { s with ds := Memory.write s.ds (uint a) v }
  else .error (.dataPortAddress a)

/-! ## The instruction-fetch port (20_memory.md R54) -/

/-- `ld_count`, the 32-bit static input that carries `N` (R54): the host drives it with the number of words it loaded
(70_reset_and_hazards.md R244; notes/assumptions/10.md). -/
def State.ldCount (s : State) : Word32 := BitVec.ofNat 32 s.imem.length

/-- The loaded range `[IBASE, IBASE+N)`, checked with `ld_base` and `ld_count` (20_memory.md R53, R54; 40_cycle.md
R101). -/
def State.inLoadedRange (s : State) (a : Word32) : Bool :=
  decide (uint s.ldBase ≤ uint a) && decide (uint a < uint s.ldBase + uint s.ldCount)

/-- `IFetch(a)` behind the range check: the word at an address of the loaded range, none at any other, whose
`if_word` is never used (R54). -/
def State.iFetch (s : State) (a : Word32) : Option InstrWord :=
  if s.inLoadedRange a then s.imem[uint a - uint s.ldBase]? else none

/-! ## Registers -/

/-- `ACC <- v` (00_scope.md R12). -/
def State.setAcc (s : State) (v : BitVec s.width) : State := { s with acc := v }

/-- `PC <- target` (00_scope.md R12). -/
def State.setPc (s : State) (target : Word32) : State := { s with pc := target }

/-- `PC <- PC + 1`, modulo 2^32 (10_state.md R26). -/
def State.advancePc (s : State) : State := s.setPc (s.pc + 1)

/-- `a + b = bv_W(uint(a) + uint(b))` (00_scope.md R11; 41_data_memory.md R136). -/
def addW {w : Nat} (a b : BitVec w) : BitVec w := bv w ((uint a : Int) + (uint b : Int))

/-- `a - b = bv_W(uint(a) - uint(b))` (00_scope.md R11; 41_data_memory.md R136). -/
def subW {w : Nat} (a b : BitVec w) : BitVec w := bv w ((uint a : Int) - (uint b : Int))

/-! ## The input and output ports (42_io.md R162, R163) -/

/-- `in_valid`: a value is available (R162). -/
def State.inValid (s : State) : Bool := !s.input.isEmpty

/-- `InTake()`: the head of the input with what is left of it, or none where the step is to end in `Wait`
(R162). -/
def State.inTake (s : State) : Option (BitVec s.width × List (BitVec s.width)) :=
  match s.input with
  | [] => none
  | v :: rest => some (v, rest)

/-- The IN wait is on (10_state.md R37). -/
def State.setInWait (s : State) : State := { s with inWait := true }

/-- `OutEmit(v)`: append to the output; it never waits and never fails (R163). -/
def State.outEmit (s : State) (v : BitVec s.width) : State := { s with output := s.output ++ [v] }

/-! ## The end of a run -/

/-- `signal Halt`: `RUN <- HALTED` (43_control.md R180; 40_cycle.md R108). -/
def State.signalHalt (s : State) : State := { s with run := .halted }

/-- `raise Fatal(cause, info)`, the CORE's trap entry (60_exceptions.md R205): no vector, no handler, no saved
state but the record. There is no return from it (R210): `State.applyReset` below is the only way out. -/
def State.raiseFatal (s : State) (cause : FaultCause) (info : Word32) : State :=
  { s with run := .errored, faultCause := cause, faultInfo := info }

/-- Reset applied again, with the program that is loaded (70_reset_and_hazards.md R240, R242): at an instruction
boundary or in a terminal state. While IN waits it is refused (93_implementation_defined.md). The Instruction
Store, `ld_base`, `ld_count` and the input stream are the host's and stay. `MAR`, `IR`, `DIR` are unspecified
and are kept (notes/assumptions/5.md). -/
def State.applyReset (s : State) (acc0 : BitVec s.width) : Host.Outcome State Fault Refusal :=
  if s.inWait then .refused .resetDuringWait
  else .next { s with
    run := .running, faultCause := .none, faultInfo := 0, pc := s.ldBase, acc := acc0, ds := [], output := [] }

end Sys2Proof.Machine
end

