-- ==== Sys2Proof/Machine/Control.lean ====
section
/-! DEFINITION. END, JMP, SKIPZ (43_control.md). A meaning runs after the fetch has advanced `PC`
(40_cycle.md R107). -/

namespace Sys2Proof.Machine

/-- END: `signal Halt`; the operand is ignored (R180). -/
def execEnd (s : State) : Host.Outcome State Fault Refusal := .next s.signalHalt

/-- JMP: `PC <- OPD`, over the fetch increment; a bad target faults at the next fetch (R182, R183). -/
def execJmp (opd : Word32) (s : State) : Host.Outcome State Fault Refusal := .next (s.setPc (jumpTarget opd))

/-- SKIPZ: `PC <- PC + 1` when `ACC == 0`; the operand is ignored (R184). -/
def execSkipz (s : State) : Host.Outcome State Fault Refusal :=
  .next (if s.accIsZero then s.advancePc else s)

end Sys2Proof.Machine
end

