-- ==== Sys2Proof/Machine/DataMemory.lean ====
section
/-! DEFINITION. LOAD, ADD, STORE, SUB (41_data_memory.md). A meaning runs after fetch and decode, so `PC` already
holds the address of the instruction plus one (40_cycle.md R107). -/

namespace Sys2Proof.Machine

/-- The part LOAD, ADD and SUB share: check the data address (R134), read the cell, and write `ACC` with a value
computed from it. -/
def accFromCell (opd : Word32) (s : State) (f : BitVec s.width → BitVec s.width) : Host.Outcome State Fault Refusal :=
  match dataAddress opd with
  | none => .next (s.raiseFatal .addressOutOfRange opd)
  | some a =>
    match s.dmRead a with
    | .error e => .fault e
    | .ok v => .next (s.setAcc (f v))

/-- The part of STORE: check the data address (R134), then write the cell. -/
def cellFromValue (opd : Word32) (s : State) (v : BitVec s.width) : Host.Outcome State Fault Refusal :=
  match dataAddress opd with
  | none => .next (s.raiseFatal .addressOutOfRange opd)
  | some a =>
    match s.dmWrite a v with
    | .error e => .fault e
    | .ok t => .next t

/-- LOAD: `ACC <- MemRead(d, 1)` (R130). -/
def execLoad (opd : Word32) (s : State) : Host.Outcome State Fault Refusal := accFromCell opd s fun v => v

/-- ADD: `ACC <- ACC + MemRead(d, 1)`, modulo 2^W, no trap (R131, R136). -/
def execAdd (opd : Word32) (s : State) : Host.Outcome State Fault Refusal := accFromCell opd s fun v => addW s.acc v

/-- STORE: `MemWrite(d, 1, ACC)` (R132). -/
def execStore (opd : Word32) (s : State) : Host.Outcome State Fault Refusal := cellFromValue opd s s.acc

/-- SUB: `ACC <- ACC - MemRead(d, 1)`, modulo 2^W, no trap (R133, R136). -/
def execSub (opd : Word32) (s : State) : Host.Outcome State Fault Refusal := accFromCell opd s fun v => subW s.acc v

end Sys2Proof.Machine
end

