-- ==== Sys2Proof/Machine/InputOutput.lean ====
section
/-! DEFINITION. IN and OUT (42_io.md). The operand field is ignored (30_encoding.md R81). -/

namespace Sys2Proof.Machine

/-- IN: `ACC <- InTake()` (R160). With no input value it ends in `Wait`, which the wait bit tells the loop
(R162; `commit` in Machine/Cycle.lean; notes/assumptions/6.md). -/
def execIn (s : State) : Host.Outcome State Fault Refusal :=
  match s.inTake with
  | none => .next s.setInWait
  | some (v, rest) => .next { s with acc := v, input := rest }

/-- OUT: `OutEmit(ACC)` (R161). -/
def execOut (s : State) : Host.Outcome State Fault Refusal := .next (s.outEmit s.acc)

end Sys2Proof.Machine
end

