-- ==== Sys2Proof/Machine/Dispatch.lean ====
section
/-! DEFINITION. The execute dispatcher: an exhaustive match, one arm per tag, no default arm (40_cycle.md R105). -/

namespace Sys2Proof.Machine

def exec (i : Instr) (s : State) : Host.Outcome State Fault Refusal :=
  match i with
  | .load opd => Sys2Proof.Machine.execLoad opd s
  | .add opd => Sys2Proof.Machine.execAdd opd s
  | .store opd => Sys2Proof.Machine.execStore opd s
  | .sub opd => Sys2Proof.Machine.execSub opd s
  | .in_ _ => Sys2Proof.Machine.execIn s
  | .out _ => Sys2Proof.Machine.execOut s
  | .end_ _ => Sys2Proof.Machine.execEnd s
  | .jmp opd => Sys2Proof.Machine.execJmp opd s
  | .skipz _ => Sys2Proof.Machine.execSkipz s

end Sys2Proof.Machine
end

