-- ==== Sys2Proof/Machine/Cycle.lean ====
section
/-! DEFINITION. One step of the CORE while it runs: fetch, decode, execute, commit (40_cycle.md R100 to R108). -/

namespace Sys2Proof.Machine

/-- The first write of a step, `MAR <- PC` (R101). A new attempt begins, so the wait bit is off. -/
def State.latchAddress (s : State) : State := { s with mar := s.pc, inWait := false }

/-- The successful fetch, `IR <- IFetch(MAR)` and `PC <- PC + 1` (R102). -/
def State.latchWord (s : State) (w : InstrWord) : State := { s with ir := w, pc := s.pc + 1 }

/-- The decoded instruction in its holder, `DIR <- (tag, OPD)` (R104). -/
def State.latchDecoded (s : State) (i : Instr) : State := { s with dir := i }

/-- The state in which an instruction executes: the word `w` fetched at the boundary state `s` and decoded to
`i` (R107). -/
def State.fetched (s : State) (w : InstrWord) (i : Instr) : State := (s.latchAddress.latchWord w).latchDecoded i

/-- The outcomes of an execute phase (00_scope.md R13; 40_cycle.md R105). -/
inductive Signal where
  | Continue
  | Halt
  | Fatal (cause : FaultCause) (info : Word32)
  | Wait
deriving DecidableEq, Repr

/-- The outcome that a meaning's next state stands for: `Wait` shows in the wait bit, `Halt` and `Fatal` in the run
state and the fault record (notes/assumptions/6.md). -/
def signalOf (t : State) : Signal :=
  if t.inWait then .Wait
  else match t.run with
    | .running => .Continue
    | .halted => .Halt
    | .errored => .Fatal t.faultCause t.faultInfo

/-- Committing the outcome of an execute phase that began at the boundary state `s` (R108). `Wait` takes back
every write of the step and leaves the wait bit on; `Continue`, `Halt` and `Fatal` keep the writes. (The wait bit
is on exactly when `signalOf` says `Wait`: `signalOf_eq_wait_iff` in Laws/Step.lean.) -/
def commit (s : State) (o : Host.Outcome State Fault Refusal) : Host.Outcome State Fault Refusal :=
  match o with
  | .next t => if t.inWait then .next s.setInWait else .next t
  | .fault e => .fault e
  | .refused r => .refused r

/-- Decode and execute, the word fetched (R104, R105, R108). An unknown opcode keeps the `PC` increment (R207). -/
def decodeAndExecute (s : State) (w : InstrWord) : Host.Outcome State Fault Refusal :=
  match decode w with
  | .error (.unknownOpcode opc) => .next ((s.latchAddress.latchWord w).raiseFatal .unknownOpcode opc)
  | .ok i => commit s (exec i (s.fetched w i))

/-- One step in RUNNING (R107). A failed fetch leaves `PC` at the failing address (R101, R207). -/
def stepRunning (s : State) : Host.Outcome State Fault Refusal :=
  match s.iFetch s.pc with
  | none => .next (s.latchAddress.raiseFatal .invalidAddress s.pc)
  | some w => decodeAndExecute s w

/-- The execution loop's step: taken only in RUNNING (R100). In HALTED and ERRORED no step is enabled and nothing
changes: the model's step answers the same state (R38, R243; notes/assumptions/7.md). -/
def stepLoop (s : State) : Host.Outcome State Fault Refusal :=
  match s.run with
  | .running => stepRunning s
  | .halted => .next s
  | .errored => .next s

/-- The Instruction Store with `w` at `PC`: the word at `PC` replaced where `PC` is loaded, else a program of the
one word `w` loaded at `PC`. -/
def State.placeAtPc (s : State) (w : InstrWord) : State :=
  if s.inLoadedRange s.pc then { s with imem := s.imem.set (uint s.pc - uint s.ldBase) w }
  else { s with ldBase := s.pc, imem := [w] }

end Sys2Proof.Machine
end

