-- ==== Sys2Proof/Machine/Step.lean ====
section
/-! DEFINITION. The step of the machine, and how one instruction is placed where the next step fetches it. -/

namespace Sys2Proof.Machine

/-- One step (40_cycle.md R100, R107). -/
def step (s : State) : Host.Outcome State Fault Refusal := stepLoop s

/-- The state with the instruction whose bits are `w` (bits at and above `nbits` 0) stored at `PC`, in RUNNING with
no fault recorded, which is what the next fetch needs. The host's load of the Instruction Store is what it stands
for (20_memory.md R53; notes/assumptions/14.md). -/
def State.withFetchWord (s : State) (nbits w : Nat) : State :=
  { s.placeAtPc (BitVec.ofNat 64 (w % 2 ^ nbits)) with run := .running, faultCause := .none, faultInfo := 0 }

end Sys2Proof.Machine
end

