-- ==== Sys2Proof/Machine/Ports.lean ====
section
/-! DEFINITION. The port signals an executing instruction drives (20_memory.md R54 to R56; 42_io.md R162, R163),
as functions of the instruction and the state it executes in. The meanings use the ports' transactions in
Machine/Ops.lean; these records show them signal by signal. -/

namespace Sys2Proof.Machine

/-- The data-memory port; `none` is an entry "-" of R56's table, a signal that is not driven. -/
structure DmPort (w : Nat) where
  re : Bool
  we : Bool
  addr : Option (BitVec 4)
  wdata : Option (BitVec w)
deriving DecidableEq, Repr

/-- No activity: an instruction outside the data family, or one that faults (R56). -/
def DmPort.idle (w : Nat) : DmPort w where
  re := false
  we := false
  addr := none
  wdata := none

/-- A read of the operand's cell, where the address check passes. -/
def DmPort.reading (w : Nat) (opd : Word32) : DmPort w :=
  match dataAddress opd with
  | none => DmPort.idle w
  | some a => { re := true, we := false, addr := some a, wdata := none }

/-- A write of `v` to the operand's cell, where the address check passes. -/
def DmPort.writing {w : Nat} (opd : Word32) (v : BitVec w) : DmPort w :=
  match dataAddress opd with
  | none => DmPort.idle w
  | some a => { re := false, we := true, addr := some a, wdata := some v }

/-- The table of R56: what each instruction drives when it executes in `s`. -/
def dmPort (i : Instr) (s : State) : DmPort s.width :=
  match i with
  | .load opd | .add opd | .sub opd => DmPort.reading s.width opd
  | .store opd => DmPort.writing opd s.acc
  | .in_ _ | .out _ | .end_ _ | .jmp _ | .skipz _ => DmPort.idle s.width

/-- The instruction-fetch port (R54): `if_addr`, driven from `MAR`; the static inputs `ld_base` and `ld_count`; and
`if_word`, where the range check lets the CORE use it. -/
structure IfPort where
  addr : Word32
  ldBase : Word32
  ldCount : Word32
  word : Option InstrWord
deriving DecidableEq, Repr

/-- The fetch port of the step that begins at `s`: `MAR` holds `PC` (40_cycle.md R101). -/
def ifPort (s : State) : IfPort where
  addr := s.pc
  ldBase := s.ldBase
  ldCount := s.ldCount
  word := s.iFetch s.pc

/-- The input and output ports' signals from the CORE: `in_take`, and `out_valid` with `out_data` (42_io.md R162,
R163). -/
structure IoPort (w : Nat) where
  take : Bool
  valid : Bool
  data : Option (BitVec w)
deriving DecidableEq, Repr

/-- What an instruction drives on the input and output ports when it executes in `s`: IN takes a value when one is
available, OUT emits `ACC` (42_io.md R160, R161). -/
def ioPort (i : Instr) (s : State) : IoPort s.width :=
  match i with
  | .in_ _ => { take := s.inValid, valid := false, data := none }
  | .out _ => { take := false, valid := true, data := some s.acc }
  | .load _ | .add _ | .store _ | .sub _ | .end_ _ | .jmp _ | .skipz _ =>
    { take := false, valid := false, data := none }

end Sys2Proof.Machine
end

