-- ==== Sys2Proof/Machine/Environment.lean ====
section
/-! DEFINITION. What the host does to the CORE and sees of it between steps (60_exceptions.md R222, R223). Loading
and the first reset of a run are `State.start`; reset applied again is `State.applyReset`. -/

namespace Sys2Proof.Machine

/-- The host loads another program after the end of a run, before it applies reset again
(70_reset_and_hazards.md R242, R244). During a run it may not (60_exceptions.md R223). What a load of more than
`ICAP` words does is open (91_not_in_source.md), and 93_implementation_defined.md says to refuse it; a base that
breaks `IBASE + ICAP <= 2^31` (00_scope.md R8) is refused likewise. The order of the checks and the refusal of the
base: DESIGN CHOICE, safe, notes/assumptions/21.md. -/
def State.loadStore (s : State) (ibase : Word32) (imem : List InstrWord) : Host.Outcome State Fault Refusal :=
  match s.run with
  | .running => .refused .loadDuringRun
  | .halted | .errored =>
    if s.icap < imem.length then .refused .loadExceedsCapacity
    else if 2 ^ 31 < uint ibase + s.icap then .refused .loadBaseTooHigh
    else .next { s with ldBase := ibase, imem := imem }

/-- The host presents the next input value (42_io.md R162). How the host makes a W-bit value of its integer is its
own matter (R160); here it is `v` modulo 2^W. -/
def State.present (s : State) (v : Nat) : State := { s with input := s.input ++ [BitVec.ofNat s.width v] }

/-- `RUN` as the host reads it (10_state.md R30). -/
def State.runBits (s : State) : BitVec 2 := s.run.code

/-- `FAULT_CAUSE` as the host reads it (10_state.md R31). -/
def State.faultCauseBits (s : State) : BitVec 2 := s.faultCause.code

/-- What the host may read at an instruction boundary: `PC`, `ACC` and `DS[0..9]`, the W-bit values as the signed
integers they stand for (60_exceptions.md R222; 10_state.md R21). -/
structure Snapshot where
  pc : Word32
  acc : Int
  ds : List Int
deriving DecidableEq, Repr

/-- The boundary contents of a state. -/
def State.snapshot (s : State) : Snapshot where
  pc := s.pc
  acc := sint s.acc
  ds := (List.range Config.dsSize).map fun a => sint (s.cell a)

/-- The observation at the boundary before the next step: there is one in RUNNING (40_cycle.md R110), and none
where a step that ended in `Wait` is about to be retried, since that boundary was observed before the first
attempt (R222). -/
def State.observe (s : State) : Option Snapshot :=
  match s.run with
  | .running => if s.inWait then none else some s.snapshot
  | .halted | .errored => none

/-- The boundary observations of `k` steps from `s`, in order (R222). -/
def observations (k : Nat) (s : State) : List Snapshot :=
  match k with
  | 0 => []
  | k + 1 =>
    match step s with
    | .next t => s.observe.toList ++ observations k t
    | .fault _ => s.observe.toList
    | .refused _ => s.observe.toList

/-- What a run is observed to do (R222): the boundary snapshots, the output and the input taken as signed integers,
and the final contents. -/
structure RunObservation where
  snapshots : List Snapshot
  output : List Int
  inputTaken : List Int
  run : RunState
  faultCause : FaultCause
  faultInfo : Word32
  final : Snapshot
deriving DecidableEq, Repr

/-- The state after `k` steps, the last one reached where the model stops before. -/
def stateAfter (k : Nat) (s : State) : State :=
  match k with
  | 0 => s
  | k + 1 =>
    match step s with
    | .next t => stateAfter k t
    | .fault _ => s
    | .refused _ => s

/-- What `k` steps from `s` are observed to do (R222). -/
def runObservation (k : Nat) (s : State) : RunObservation :=
  let t := stateAfter k s
  { snapshots := observations k s
    output := t.output.map fun v => sint v
    inputTaken := (s.input.take (s.input.length - t.input.length)).map fun v => sint v
    run := t.run
    faultCause := t.faultCause
    faultInfo := t.faultInfo
    final := t.snapshot }

end Sys2Proof.Machine
end

