-- ==== Sys2Proof/Safety.lean ====
section
/-! DEFINITION. What the claims call a well-formed state, a final state and a stuck state, and what the fault
record of a final state says. -/

namespace Sys2Proof.Machine

/-- The word at `PC` is loaded and decodes to `i`. -/
def State.about (s : State) (i : Instr) : Prop := ∃ w, s.iFetch s.pc = some w ∧ decode w = .ok i

/-- RUN is HALTED or ERRORED: the final states of a run (40_cycle.md R111). -/
def State.final (s : State) : Prop := s.run = .halted ∨ s.run = .errored

/-- The constraints of 00_scope.md R8 on the parameters of a run. -/
def State.paramsOk (s : State) : Prop :=
  1 ≤ s.width ∧ s.imem.length ≤ s.icap ∧ uint s.ldBase + s.icap ≤ 2 ^ 31

/-- The fault record is set exactly in ERRORED; it reads 0 in every other run state (10_state.md R31, R32). -/
def State.recordOk (s : State) : Prop :=
  (s.run = .errored ↔ s.faultCause ≠ .none) ∧ (s.run ≠ .errored → s.faultInfo = 0)

/-- The wait bit is on only while the run is RUNNING at an IN (10_state.md R37). -/
def State.waitOk (s : State) : Prop := s.inWait = true → s.run = .running ∧ ∃ opd, s.about (.in_ opd)

/-- The invariant of the machine: legal parameters, a canonical Data Store, a coherent fault record and a
coherent wait bit. -/
def State.Inv (s : State) : Prop :=
  s.paramsOk ∧ Memory.wf s.ds = true ∧ s.recordOk ∧ s.waitOk

/-- What a final state says of how the run ended (60_exceptions.md R200 to R203, R207; 43_control.md R180):
HALTED, that the word before `PC` is an END; ERRORED, that the recorded condition did hold, of `PC` itself for
InvalidAddress and of the word before `PC` for the other two. -/
def State.endTruthful (s : State) : Prop :=
  (s.run = .halted → ∃ w opd, s.iFetch (s.pc - 1) = some w ∧ decode w = .ok (.end_ opd)) ∧
  (s.run = .errored →
    match s.faultCause with
    | .none => False
    | .invalidAddress => s.faultInfo = s.pc ∧ s.inLoadedRange s.pc = false
    | .addressOutOfRange =>
      ¬ (0 ≤ sint s.faultInfo ∧ sint s.faultInfo ≤ 9) ∧
      ∃ w, s.iFetch (s.pc - 1) = some w ∧ opdField w = s.faultInfo ∧
        1 ≤ sint (opcField w) ∧ sint (opcField w) ≤ 4
    | .unknownOpcode =>
      ¬ (1 ≤ sint s.faultInfo ∧ sint s.faultInfo ≤ 9) ∧
      ∃ w, s.iFetch (s.pc - 1) = some w ∧ opcField w = s.faultInfo)

/-- An IN that waits with no value presented: the run is stuck as long as the host presents none, and it is not
final (40_cycle.md R111; 42_io.md R162). -/
def State.stuck (s : State) : Prop := s.run = .running ∧ (∃ opd, s.about (.in_ opd)) ∧ s.input = []

end Sys2Proof.Machine
end

