-- ==== Sys2Proof/Certificates/Slice0/Obligations.lean ====
section
/-! DEFINITION. The statements for the provers, from the numbered rules of spec/. A statement whose docstring says
DERIVED rests on a decision or an inference the spec marks as its own, or on a choice of the model, which it
names. Where a statement writes `{ s with … }`, every field not named is unchanged: that is its frame. -/

open Sys2Proof Sys2Proof.Machine

/-! ## Encoding -/

/-- DERIVED. Words written out in the spec decode to the instructions they stand for, and the illegal line `99 0`
is refused (30_encoding.md section 4, the examples of R90; layout: decision D2). -/
def Obligations.WrittenWordsDecode : Prop :=
  decode 0x0000000300000000#64 = .ok (.store 0) ∧
  decode 0x0000000800000008#64 = .ok (.jmp 8) ∧
  decode 0x00000001FFFFFFFF#64 = .ok (.load (-1)) ∧
  decode 0x0000000600000000#64 = .ok (.out 0) ∧
  decode 0x0000006300000000#64 = .error (.unknownOpcode 0x63)

/-- R83: the decoder maps the signed value of the whole 32-bit field OPC, 1 to 9, to the nine tags, with OPD beside
it, and no other value to any. -/
def Obligations.DecoderFollowsOpcodeTable : Prop :=
  ∀ opc opd : Word32,
    (sint opc = 1 → decode (opc ++ opd) = .ok (.load opd)) ∧
    (sint opc = 2 → decode (opc ++ opd) = .ok (.add opd)) ∧
    (sint opc = 3 → decode (opc ++ opd) = .ok (.store opd)) ∧
    (sint opc = 4 → decode (opc ++ opd) = .ok (.sub opd)) ∧
    (sint opc = 5 → decode (opc ++ opd) = .ok (.in_ opd)) ∧
    (sint opc = 6 → decode (opc ++ opd) = .ok (.out opd)) ∧
    (sint opc = 7 → decode (opc ++ opd) = .ok (.end_ opd)) ∧
    (sint opc = 8 → decode (opc ++ opd) = .ok (.jmp opd)) ∧
    (sint opc = 9 → decode (opc ++ opd) = .ok (.skipz opd)) ∧
    (¬ (1 ≤ sint opc ∧ sint opc ≤ 9) → decode (opc ++ opd) = .error (.unknownOpcode opc))

/-- DERIVED (30_encoding.md sections 1 and 2; layout: decision D2; every instruction is well formed, log entry 16).
Decoding an encoded well-formed instruction gives it back, with every operand value. -/
def Obligations.DecodeOfEncodeIsIdentity : Prop :=
  ∀ i : Instr, i.wellFormed = true → decode (encode i) = .ok i

/-- DERIVED (30_encoding.md sections 1 and 2; layout: decision D2). A word that decodes is the one word of its
instruction: encoding what was decoded gives the word back. -/
def Obligations.EncodeOfDecodeIsIdentity : Prop :=
  ∀ (w : InstrWord) (i : Instr), decode w = .ok i → encode i = w

/-- DERIVED (30_encoding.md section 4, R90 and R89; decisions D13, D20). A well-formed assembler line has a word, the
word decodes to the line's instruction with the operand's 32-bit pattern, 0 where none is written, and the operand
field reads back as the integer written. -/
def Obligations.AssembledLineDecodes : Prop :=
  ∀ l : AsmLine, l.wellFormed = true →
    ∃ w, l.word = some w ∧ decode w = .ok (l.mnemonic.instr (bv 32 l.operandValue)) ∧
      sint (opdField w) = l.operandValue

/-- DERIVED (30_encoding.md section 1, R80; decision D2). A pair `opcode operand` of integers in `[-2^31, 2^31)` has a
word whose fields read back as the two integers; the word is an instruction exactly for opcodes 1 to 9. -/
def Obligations.NumberPairWordKeepsBothIntegers : Prop :=
  ∀ l : NumberLine, l.wellFormed = true →
    ∃ w, l.word = some w ∧ sint (opcField w) = l.opcode ∧ sint (opdField w) = l.operand ∧
      ((∃ i, decode w = .ok i) ↔ 1 ≤ l.opcode ∧ l.opcode ≤ 9)

/-! ## The step -/

/-- DERIVED (40_cycle.md sections 2 to 5, R101 to R108; the wait bit is log entry 6). In RUNNING, when the word at PC
decodes to a well-formed instruction, the step is that instruction's execute phase from the fetched state, in
which MAR, IR and DIR are latched and PC is advanced, and then the commit: an outcome that waits takes back every
write and leaves the wait bit on, any other outcome is the step's. -/
def Obligations.StepRunsDecodedInstruction : Prop :=
  ∀ (s : State) (w : InstrWord) (i : Instr),
    s.run = .running → s.iFetch s.pc = some w → decode w = .ok i → i.wellFormed = true →
    ∀ u : State, u = { s with mar := s.pc, ir := w, pc := s.pc + 1, dir := i, inWait := false } →
      (∀ t, exec i u = .next t → t.inWait = false → step s = .next t) ∧
      (∀ t, exec i u = .next t → t.inWait = true → step s = .next { s with inWait := true }) ∧
      (∀ e, exec i u = .fault e → step s = .fault e) ∧
      (∀ r, exec i u = .refused r → step s = .refused r)

/-- DERIVED (40_cycle.md section 2, R101; 60_exceptions.md section 2, R205, R207; PC is kept by decision D7, the record
by D8 and D9). A fetch outside the loaded range ends the run: ERRORED, cause InvalidAddress, info the PC that
failed; PC stays, and no instruction is latched. -/
def Obligations.FetchOutsideLoadedRangeEndsRun : Prop :=
  ∀ s : State, s.run = .running →
    ¬ (uint s.ldBase ≤ uint s.pc ∧ uint s.pc < uint s.ldBase + uint s.ldCount) →
    step s = .next { s with
      run := .errored, faultCause := .invalidAddress, faultInfo := s.pc, mar := s.pc, inWait := false }

/-- R203: a fetched word whose OPC is outside 1 to 9 ends the run: ERRORED, cause UnknownOpcode, info OPC, whatever OPD
is; PC keeps the fetch increment, and nothing is executed. -/
def Obligations.UnknownOpcodeEndsRun : Prop :=
  ∀ (s : State) (opc opd : Word32), s.run = .running → s.iFetch s.pc = some (opc ++ opd) →
    ¬ (1 ≤ sint opc ∧ sint opc ≤ 9) →
    step s = .next { s with
      run := .errored, faultCause := .unknownOpcode, faultInfo := opc, mar := s.pc, ir := opc ++ opd,
      pc := s.pc + 1, inWait := false }

/-- DERIVED (10_state.md section 3, R24, and 60_exceptions.md R207; a waiting IN leaves PC by decision D11, a failed
fetch by D7). How every step leaves PC. -/
def Obligations.ProgramCounterAfterStep : Prop :=
  ∀ s : State, s.run = .running → ∃ t, step s = .next t ∧
    (s.iFetch s.pc = none → t.pc = s.pc) ∧
    (∀ w, s.iFetch s.pc = some w →
      (∀ e, decode w = .error e → t.pc = s.pc + 1) ∧
      (∀ i, decode w = .ok i →
        match i with
        | .load _ | .add _ | .store _ | .sub _ | .out _ | .end_ _ => t.pc = s.pc + 1
        | .in_ _ => t.pc = if s.input.isEmpty then s.pc else s.pc + 1
        | .jmp opd => t.pc = opd
        | .skipz _ => t.pc = if s.acc = 0 then s.pc + 2 else s.pc + 1))

/-- DERIVED (10_state.md section 3, R26; decision D3). Under the constraints of R8 no increment of PC wraps: after a step
that fetched anything but a JMP, PC is the old PC plus 0, 1 or 2 as a number, and at most 2^31 + 1. -/
def Obligations.ProgramCounterNeverWraps : Prop :=
  ∀ (s t : State) (w : InstrWord), s.paramsOk → s.run = .running → s.iFetch s.pc = some w →
    (∀ opd, decode w ≠ .ok (.jmp opd)) → step s = .next t →
    (uint t.pc = uint s.pc ∨ uint t.pc = uint s.pc + 1 ∨ uint t.pc = uint s.pc + 2) ∧ uint t.pc ≤ 2 ^ 31 + 1

/-- DERIVED (20_memory.md section 3, R53; decisions D4, D5; the list form of the store is log entry 10). After reset for a
legal launch ld_count is N, the k-th loaded word is fetched at IBASE + k, and every address outside [IBASE, IBASE+N)
fetches nothing. -/
def Obligations.LoadedProgramIsFetchedFromBase : Prop :=
  ∀ l : Launch, l.wellFormed = true →
    uint (State.start l).ldCount = l.imem.length ∧
    (∀ k, k < l.imem.length → (State.start l).iFetch (l.ibase + BitVec.ofNat 32 k) = l.imem[k]?) ∧
    (∀ a : Word32, ¬ (uint l.ibase ≤ uint a ∧ uint a < uint l.ibase + l.imem.length) →
      (State.start l).iFetch a = none)

/-! ## Data memory -/

/-- R130. LOAD: its encoding, its effect for a legal data address, the fatal condition for any other, and that a cell
nothing has stored reads 0. It completes in a next state on every operand. -/
def Obligations.LoadCopiesCellToAccumulator : Prop :=
  ∀ (s : State) (opd : Word32),
    decode (0x00000001#32 ++ opd) = .ok (.load opd) ∧
    (0 ≤ sint opd ∧ sint opd ≤ 9 → exec (.load opd) s = .next { s with acc := s.cell (sint opd).toNat }) ∧
    (¬ (0 ≤ sint opd ∧ sint opd ≤ 9) → exec (.load opd) s = .next { s with
      run := .errored, faultCause := .addressOutOfRange, faultInfo := opd }) ∧
    (∀ a, Memory.read ([] : Memory s.width) a = 0)

/-- R131. ADD: its encoding, the sum modulo 2^W with the overflow discarded, and the fatal condition for an illegal data
address. -/
def Obligations.AddAddsCellToAccumulator : Prop :=
  ∀ (s : State) (opd : Word32),
    decode (0x00000002#32 ++ opd) = .ok (.add opd) ∧
    (0 ≤ sint opd ∧ sint opd ≤ 9 → exec (.add opd) s = .next { s with
      acc := bv s.width ((uint s.acc : Int) + (uint (s.cell (sint opd).toNat) : Int)) }) ∧
    (¬ (0 ≤ sint opd ∧ sint opd ≤ 9) → exec (.add opd) s = .next { s with
      run := .errored, faultCause := .addressOutOfRange, faultInfo := opd })

/-- R132. STORE: its encoding, the one cell it writes, every other cell unchanged, ACC unchanged, the fatal condition for
an illegal data address with no cell written, and that no other instruction writes a cell. -/
def Obligations.StoreWritesOneCell : Prop :=
  (∀ (s : State) (opd : Word32),
    decode (0x00000003#32 ++ opd) = .ok (.store opd) ∧
    (0 ≤ sint opd ∧ sint opd ≤ 9 → ∃ m : Memory s.width, exec (.store opd) s = .next { s with ds := m } ∧
      Memory.read m (sint opd).toNat = s.acc ∧
      ∀ a, a ≠ (sint opd).toNat → Memory.read m a = Memory.read s.ds a) ∧
    (¬ (0 ≤ sint opd ∧ sint opd ≤ 9) → exec (.store opd) s = .next { s with
      run := .errored, faultCause := .addressOutOfRange, faultInfo := opd })) ∧
  (∀ (i : Instr) (s t : State), (∀ opd, i ≠ .store opd) → exec i s = .next t → ∀ a, t.cellNat a = s.cellNat a)

/-- R133. SUB: its encoding, ACC minus the cell modulo 2^W, and the fatal condition for an illegal data address. -/
def Obligations.SubSubtractsCellFromAccumulator : Prop :=
  ∀ (s : State) (opd : Word32),
    decode (0x00000004#32 ++ opd) = .ok (.sub opd) ∧
    (0 ≤ sint opd ∧ sint opd ≤ 9 → exec (.sub opd) s = .next { s with
      acc := bv s.width ((uint s.acc : Int) - (uint (s.cell (sint opd).toNat) : Int)) }) ∧
    (¬ (0 ≤ sint opd ∧ sint opd ≤ 9) → exec (.sub opd) s = .next { s with
      run := .errored, faultCause := .addressOutOfRange, faultInfo := opd })

/-- R134. The step of a LOAD, ADD, STORE or SUB raises AddressOutOfRange exactly when its operand, read as signed, is
outside 0 to 9; then ACC, every cell and the streams are unchanged and PC keeps the fetch increment. -/
def Obligations.DataAddressIsCheckedFirst : Prop :=
  ∀ (s : State) (w : InstrWord) (i : Instr) (opd : Word32),
    s.run = .running → s.iFetch s.pc = some w → decode w = .ok i →
    (i = .load opd ∨ i = .add opd ∨ i = .store opd ∨ i = .sub opd) →
    (¬ (0 ≤ sint opd ∧ sint opd ≤ 9) → step s = .next { s with
      run := .errored, faultCause := .addressOutOfRange, faultInfo := opd, mar := s.pc, ir := w, dir := i,
      pc := s.pc + 1, inWait := false }) ∧
    (0 ≤ sint opd ∧ sint opd ≤ 9 → ∃ t, step s = .next t ∧ t.run = .running ∧ t.faultCause = s.faultCause)

/-- DERIVED (00_scope.md section 4, R11; 41_data_memory.md section 1, R136). For every width, the sums and differences
ADD and SUB use are the same bit patterns under the signed and the unsigned reading, and they undo each other. -/
def Obligations.ArithmeticIsSignAgnostic : Prop :=
  ∀ (n : Nat) (a b : BitVec n),
    addW a b = bv n (sint a + sint b) ∧ subW a b = bv n (sint a - sint b) ∧
    subW (addW a b) b = a ∧ addW (subW a b) b = a ∧
    (uint (addW a b) = (uint a + uint b) % 2 ^ n) ∧ (subW a b = 0 ↔ a = b)

/-- DERIVED (20_memory.md section 5, R60; 10_state.md section 7, R35). Writing a cell changes exactly that cell, in any
memory, canonical or not. -/
def Obligations.ReadAfterWrite : Prop :=
  ∀ (n : Nat) (m : Memory n) (a b : Nat) (v : BitVec n),
    Memory.read (Memory.write m a v) b = if b = a then v else Memory.read m b

/-- DERIVED (the model's form of the Data Store, log entry 9). A write to a cell of 0 to 9 keeps the canonical form, and
two canonical memories that read alike everywhere are equal. -/
def Obligations.CanonicalMemoryIsKeptAndUnique : Prop :=
  (∀ (n : Nat) (m : Memory n) (a : Nat) (v : BitVec n), Memory.wf m = true → a < Config.dsSize →
    Memory.wf (Memory.write m a v) = true) ∧
  (∀ (n : Nat) (m m' : Memory n), Memory.wf m = true → Memory.wf m' = true →
    (∀ a, Memory.read m a = Memory.read m' a) → m = m')

/-- DERIVED (41_data_memory.md section 3, R137). STORE to a legal address, then LOAD from it whatever ACC has become, then
OUT: the value stored is emitted. -/
def Obligations.StoreThenLoadThenOutRoundTrip : Prop :=
  ∀ (s : State) (opd unused : Word32), 0 ≤ sint opd ∧ sint opd ≤ 9 →
    ∃ m : Memory s.width, exec (.store opd) s = .next { s with ds := m } ∧
      ∀ x : BitVec s.width,
        exec (.load opd) { s with ds := m, acc := x } = .next { s with ds := m } ∧
        exec (.out unused) { s with ds := m } = .next { s with ds := m, output := s.output ++ [s.acc] }

/-- DERIVED (10_state.md section 7, R35; 20_memory.md section 7, R63). A cell differs after a step only if the step
executed a STORE to it, and then it holds the ACC of before. -/
def Obligations.OnlyStoreChangesACell : Prop :=
  ∀ (s t : State) (a : Nat), step s = .next t → t.cellNat a ≠ s.cellNat a →
    s.run = .running ∧ ∃ opd, s.about (.store opd) ∧ sint opd = a ∧ 0 ≤ sint opd ∧ sint opd ≤ 9 ∧
      t.cellNat a = s.accNat

/-- DERIVED (20_memory.md section 7, R63). Along any run, a cell keeps its value until a step that executes a STORE to it:
if it differs after k steps, one of them was that. -/
def Obligations.CellKeepsValueUntilStored : Prop :=
  ∀ (k : Nat) (s t : State) (a : Nat), Sys2Proof.core.run k s = .next t → t.cellNat a ≠ s.cellNat a →
    ∃ (j : Nat) (u : State) (opd : Word32), j < k ∧ Sys2Proof.core.run j s = .next u ∧ u.run = .running ∧
      u.about (.store opd) ∧ sint opd = a

/-- DERIVED (10_state.md section 2, R20). ACC differs after a step only if the step executed a LOAD, an ADD, a SUB or an
IN. -/
def Obligations.OnlyFourInstructionsWriteAccumulator : Prop :=
  ∀ s t : State, step s = .next t → t.accNat ≠ s.accNat →
    s.run = .running ∧ ∃ opd, s.about (.load opd) ∨ s.about (.add opd) ∨ s.about (.sub opd) ∨ s.about (.in_ opd)

/-- DERIVED (20_memory.md section 4, R55 and R56; port signals: decision D18). The signals are those of R56's table for
every instruction: LOAD, ADD and SUB of a legal address drive a read of cell OPD[3:0], STORE a write of ACC to it, an
illegal address and every other instruction drive nothing. And what the port shows is what the execute phase does:
never both enables; no write enable, no cell changed; a write enable, the one addressed cell becomes ACC; a read
enable, the address is the cell whose value LOAD copies, ADD adds and SUB subtracts. -/
def Obligations.DataPortShowsTheAccess : Prop :=
  (∀ (s : State) (opd : Word32),
    (0 ≤ sint opd ∧ sint opd ≤ 9 →
      (uint (opd.extractLsb' 0 4) : Int) = sint opd ∧
      dmPort (.load opd) s = { re := true, we := false, addr := some (opd.extractLsb' 0 4), wdata := none } ∧
      dmPort (.add opd) s = { re := true, we := false, addr := some (opd.extractLsb' 0 4), wdata := none } ∧
      dmPort (.sub opd) s = { re := true, we := false, addr := some (opd.extractLsb' 0 4), wdata := none } ∧
      dmPort (.store opd) s = { re := false, we := true, addr := some (opd.extractLsb' 0 4), wdata := some s.acc }) ∧
    (∀ i : Instr,
      (i = .load opd ∨ i = .add opd ∨ i = .sub opd ∨ i = .store opd) ∧ ¬ (0 ≤ sint opd ∧ sint opd ≤ 9) ∨
        i = .in_ opd ∨ i = .out opd ∨ i = .end_ opd ∨ i = .jmp opd ∨ i = .skipz opd →
      dmPort i s = { re := false, we := false, addr := none, wdata := none })) ∧
  ∀ (i : Instr) (s t : State), exec i s = .next t →
    ¬ ((dmPort i s).re = true ∧ (dmPort i s).we = true) ∧
    ((dmPort i s).we = false → ∀ a, t.cellNat a = s.cellNat a) ∧
    ((dmPort i s).we = true → ∃ a : BitVec 4, (dmPort i s).addr = some a ∧ uint a ≤ 9 ∧
      (dmPort i s).wdata = some s.acc ∧ t.cellNat (uint a) = s.accNat ∧
      ∀ b, b ≠ uint a → t.cellNat b = s.cellNat b) ∧
    ((dmPort i s).re = true → ∃ a : BitVec 4, (dmPort i s).addr = some a ∧ uint a ≤ 9 ∧
      ((∃ opd, i = .load opd ∧ t = { s with acc := s.cell (uint a) }) ∨
       (∃ opd, i = .add opd ∧ t = { s with acc := s.acc + s.cell (uint a) }) ∨
       (∃ opd, i = .sub opd ∧ t = { s with acc := s.acc - s.cell (uint a) })))

/-- R66: no step writes the Instruction Store, so every address fetches after it what it fetched before. -/
def Obligations.InstructionStoreIsNeverWritten : Prop :=
  ∀ s t : State, step s = .next t → t.imem = s.imem ∧ t.ldBase = s.ldBase ∧ ∀ a, t.iFetch a = s.iFetch a

/-- DERIVED (00_scope.md section 3, R8). No step changes a parameter of the run. -/
def Obligations.ParametersNeverChange : Prop :=
  ∀ s t : State, step s = .next t →
    t.width = s.width ∧ t.icap = s.icap ∧ t.ldBase = s.ldBase ∧ t.ldCount = s.ldCount

/-! ## Input and output -/

/-- DERIVED (42_io.md section 2, R160; Wait is decision D11, the wait bit log entry 6). IN: its encoding, any operand; with
a value presented it takes the head of the input into ACC; with none its execute phase only turns the wait bit on. -/
def Obligations.InTakesHeadOfInput : Prop :=
  ∀ (s : State) (opd : Word32),
    decode (0x00000005#32 ++ opd) = .ok (.in_ opd) ∧
    (∀ v rest, s.input = v :: rest → exec (.in_ opd) s = .next { s with acc := v, input := rest }) ∧
    (s.input = [] → exec (.in_ opd) s = .next { s with inWait := true })

/-- DERIVED (42_io.md section 1, R162; 40_cycle.md section 5, R108; decision D11; log entry 6). The step of an IN with no
value presented commits nothing: every field but the wait bit is as it was at the boundary. -/
def Obligations.InWithoutInputWaits : Prop :=
  ∀ (s : State) (opd : Word32), s.run = .running → s.about (.in_ opd) → s.input = [] →
    step s = .next { s with inWait := true }

/-- DERIVED (40_cycle.md section 6, R111; decision D11; log entry 6). A stuck run commits nothing in any number of steps,
and stays stuck and not final. -/
def Obligations.StuckRunNeverCommits : Prop :=
  ∀ (s : State) (k : Nat), s.stuck →
    Sys2Proof.core.run (k + 1) s = .next { s with inWait := true } ∧
    State.stuck { s with inWait := true } ∧ ¬ State.final { s with inWait := true }

/-- R161. OUT: its encoding, any operand; ACC is appended to the output and nothing else changes, so two OUTs append it
twice. -/
def Obligations.OutAppendsAccumulator : Prop :=
  ∀ (s : State) (opd opd' : Word32),
    decode (0x00000006#32 ++ opd) = .ok (.out opd) ∧
    exec (.out opd) s = .next { s with output := s.output ++ [s.acc] } ∧
    exec (.out opd') { s with output := s.output ++ [s.acc] } =
      .next { s with output := s.output ++ [s.acc, s.acc] }

/-- DERIVED (20_memory.md section 5, R60; 42_io.md sections 1 and 2). The output changes only by an OUT that appends ACC,
and the input only by an IN that takes its head into ACC. -/
def Obligations.StreamsMoveOnlyByInAndOut : Prop :=
  ∀ s t : State, step s = .next t →
    (t.output.map BitVec.toNat = s.output.map BitVec.toNat ∨
      ∃ opd, s.about (.out opd) ∧ t.output.map BitVec.toNat = s.output.map BitVec.toNat ++ [s.accNat]) ∧
    (t.input.map BitVec.toNat = s.input.map BitVec.toNat ∨
      ∃ opd v rest, s.about (.in_ opd) ∧ s.input = v :: rest ∧ t.accNat = uint v ∧
        t.input.map BitVec.toNat = rest.map BitVec.toNat)

/-- DERIVED (40_cycle.md section 5, R109; decision D11; the list of presented values is log entry 11). A value that the host
presents earlier changes no committed step: a step that does not wait reaches, with the value presented before it,
the state it reaches with the value presented after it. -/
def Obligations.InputArrivalChangesNoCommittedStep : Prop :=
  ∀ (s t : State) (v : Nat), step s = .next t → t.inWait = false → step (s.present v) = .next (t.present v)

/-- DERIVED (30_encoding.md section 1, R81; decision D13). IN, OUT, END and SKIPZ execute alike with any two operands. -/
def Obligations.UnusedOperandIsIgnored : Prop :=
  ∀ (s : State) (a b : Word32),
    exec (.in_ a) s = exec (.in_ b) s ∧ exec (.out a) s = exec (.out b) s ∧
    exec (.end_ a) s = exec (.end_ b) s ∧ exec (.skipz a) s = exec (.skipz b) s

/-! ## Control -/

/-- R180. END: its encoding, any operand; RUN becomes HALTED and nothing else changes; no other instruction reaches HALTED;
and from HALTED no step fetches: none latches an address, a word or an instruction, or moves PC. -/
def Obligations.EndHaltsAndOnlyEndHalts : Prop :=
  (∀ (s : State) (opd : Word32),
    decode (0x00000007#32 ++ opd) = .ok (.end_ opd) ∧ exec (.end_ opd) s = .next { s with run := .halted }) ∧
  (∀ s t : State, step s = .next t → t.run = .halted → s.run ≠ .halted →
    s.run = .running ∧ (∃ opd, s.about (.end_ opd)) ∧ t.pc = s.pc + 1 ∧
      ∀ u, step t = .next u → u.mar = t.mar ∧ u.ir = t.ir ∧ u.dir = t.dir ∧ u.pc = t.pc)

/-- R182. JMP: its encoding; PC becomes the operand's 32-bit pattern, unchecked, over the fetch increment, and nothing else
changes; so the next fetch is from the target. -/
def Obligations.JmpSetsProgramCounter : Prop :=
  ∀ (s : State) (opd : Word32),
    decode (0x00000008#32 ++ opd) = .ok (.jmp opd) ∧
    exec (.jmp opd) s = .next { s with pc := opd } ∧
    (s.run = .running → s.about (.jmp opd) →
      ∃ t, step s = .next t ∧ t.run = .running ∧ t.pc = opd ∧ t.iFetch t.pc = s.iFetch opd)

/-- R183. A JMP to a target outside the loaded range does not fault; the next step's fetch does, with the target as PC
and as info. -/
def Obligations.BadJumpTargetFaultsAtNextFetch : Prop :=
  ∀ (s : State) (opd : Word32), s.run = .running → s.about (.jmp opd) →
    ¬ (uint s.ldBase ≤ uint opd ∧ uint opd < uint s.ldBase + uint s.ldCount) →
    ∃ t u, step s = .next t ∧ t.run = .running ∧ t.pc = opd ∧
      step t = .next u ∧ u.run = .errored ∧ u.faultCause = .invalidAddress ∧ u.faultInfo = opd ∧ u.pc = opd

/-- DERIVED (10_state.md section 3, R28; decision D3). Under the constraints of R8, an address whose signed reading is
negative holds no instruction, and a run whose PC is such an address ends at once with InvalidAddress. -/
def Obligations.NegativeTargetIsNeverLoaded : Prop :=
  ∀ (s : State), s.paramsOk → s.run = .running → sint s.pc < 0 →
    s.inLoadedRange s.pc = false ∧
    ∃ t, step s = .next t ∧ t.run = .errored ∧ t.faultCause = .invalidAddress ∧ t.faultInfo = s.pc

/-- R184. SKIPZ: its encoding, any operand; PC advances once more exactly when every bit of ACC is 0, and nothing else
changes; so the step leaves PC at a + 2 or at a + 1, and the skipped word, whatever it is, is not fetched. -/
def Obligations.SkipzSkipsExactlyOnZero : Prop :=
  ∀ (s : State) (opd : Word32),
    decode (0x00000009#32 ++ opd) = .ok (.skipz opd) ∧
    (s.acc = 0 → exec (.skipz opd) s = .next { s with pc := s.pc + 1 }) ∧
    (s.acc ≠ 0 → exec (.skipz opd) s = .next s) ∧
    (s.run = .running → s.about (.skipz opd) →
      ∃ t, step s = .next t ∧ t.run = .running ∧ t.pc = if s.acc = 0 then s.pc + 2 else s.pc + 1)

/-- DERIVED (43_control.md section 3, R185). SKIPZ at the end of the program, L being IBASE + N: taken or not at L - 1, and
taken at L - 2, the next fetch raises InvalidAddress with L + 1, L and L. -/
def Obligations.SkipzPastTheEndFaultsAtNextFetch : Prop :=
  ∀ (s : State) (opd : Word32), s.paramsOk → s.run = .running → s.about (.skipz opd) →
    (uint s.pc + 1 = uint s.ldBase + uint s.ldCount → ∃ t u, step s = .next t ∧ t.run = .running ∧
      step t = .next u ∧ u.run = .errored ∧ u.faultCause = .invalidAddress ∧
      u.faultInfo = (if s.acc = 0 then s.pc + 2 else s.pc + 1)) ∧
    (uint s.pc + 2 = uint s.ldBase + uint s.ldCount → s.acc = 0 → ∃ t u, step s = .next t ∧ t.run = .running ∧
      step t = .next u ∧ u.run = .errored ∧ u.faultCause = .invalidAddress ∧ u.faultInfo = s.pc + 2)

/-! ## Fatal conditions and the life of a run -/

/-- DERIVED (60_exceptions.md section 2, R206 and R207; PC is kept by decision D7 where the fetch fails; that IR and DIR
are kept where nothing is latched is log entry 5, and the wait bit log entry 6). A step that raises a fatal condition
changes nothing but PC, the run state, the record, the transient registers and the wait bit: no cell, no ACC, no
input, no output; PC is kept where the fetch fails and advanced by one otherwise; a failed fetch latches no
instruction. -/
def Obligations.FaultingStepHasNoEffectOfItsOwn : Prop :=
  ∀ s t : State, s.run = .running → step s = .next t → t.run = .errored →
    ∃ (p : Word32) (w : InstrWord) (d : Instr),
      t = { s with
        run := .errored, faultCause := t.faultCause, faultInfo := t.faultInfo, pc := p, mar := s.pc, ir := w, dir := d,
        inWait := false } ∧
      (p = s.pc ∨ p = s.pc + 1) ∧
      (t.faultCause = .invalidAddress → p = s.pc ∧ w = s.ir ∧ d = s.dir) ∧
      (t.faultCause = .unknownOpcode → p = s.pc + 1 ∧ d = s.dir) ∧
      (t.faultCause = .addressOutOfRange → p = s.pc + 1)

/-- DERIVED (60_exceptions.md sections 1 and 2, R200, R209; codes and info: decisions D8, D9). A step from RUNNING ends in
ERRORED exactly under one of the three conditions, checked in the order fetch, opcode, data address, and records
the first that holds. -/
def Obligations.ExactlyThreeFatalConditions : Prop :=
  ∀ s t : State, s.run = .running → step s = .next t →
    (s.inLoadedRange s.pc = false →
      t.run = .errored ∧ t.faultCause = .invalidAddress ∧ t.faultInfo = s.pc) ∧
    (∀ opc opd : Word32, s.iFetch s.pc = some (opc ++ opd) →
      (¬ (1 ≤ sint opc ∧ sint opc ≤ 9) →
        t.run = .errored ∧ t.faultCause = .unknownOpcode ∧ t.faultInfo = opc) ∧
      (1 ≤ sint opc ∧ sint opc ≤ 4 ∧ ¬ (0 ≤ sint opd ∧ sint opd ≤ 9) →
        t.run = .errored ∧ t.faultCause = .addressOutOfRange ∧ t.faultInfo = opd) ∧
      (5 ≤ sint opc ∧ sint opc ≤ 9 ∨ 1 ≤ sint opc ∧ sint opc ≤ 4 ∧ 0 ≤ sint opd ∧ sint opd ≤ 9 →
        t.run ≠ .errored))

/-- DERIVED (40_cycle.md section 1, R100; 70_reset_and_hazards.md section 1, R243; decision D10; that the model's step of a
final state answers the same state is log entry 7). A final state is unchanged by any number of steps. -/
def Obligations.FinalStateNeverChanges : Prop :=
  ∀ (s : State) (k : Nat), s.final → Sys2Proof.core.run k s = .next s

/-- DERIVED (70_reset_and_hazards.md section 1, R240, R241; ACC0, the record and the reset itself are decisions D6, D8,
D22). The state after reset for any launch, and that a reset applied again gives the same values and leaves the
Instruction Store, its inputs and the input stream alone. The MODEL's choices in it: a reset applied again keeps MAR,
IR and DIR, which R240 leaves unspecified (log entry 5, DESIGN CHOICE), and it empties the output sequence (log entry
12, DESIGN CHOICE). -/
def Obligations.ResetLeavesTheStartState : Prop :=
  (∀ l : Launch,
    (State.start l).run = .running ∧ (State.start l).faultCause = .none ∧ (State.start l).faultInfo = 0 ∧
    (State.start l).pc = l.ibase ∧ (State.start l).acc = l.acc0 ∧ (State.start l).output = [] ∧
    (State.start l).inWait = false ∧ (State.start l).imem = l.imem ∧ (State.start l).ldBase = l.ibase ∧
    ∀ a, (State.start l).cell a = 0) ∧
  (∀ (s : State) (acc0 : BitVec s.width), s.inWait = false →
    ∃ m : Memory s.width, (∀ a, Memory.read m a = 0) ∧
      s.applyReset acc0 = .next { s with
        run := .running, faultCause := .none, faultInfo := 0, pc := s.ldBase, acc := acc0, ds := m, output := [] })

/-- DERIVED (93_implementation_defined.md; 70_reset_and_hazards.md section 1, R242; decision D22). A reset while IN waits,
which is the middle of an instruction, is refused, and so is loading the Instruction Store during a run
(60_exceptions.md section 5, R223; both refusals are log entry 17). The load and the reset that are accepted:
`LoadAfterARunReplacesTheProgram` and `ResetLeavesTheStartState`. -/
def Obligations.ResetDuringWaitIsRefused : Prop :=
  ∀ (s : State) (acc0 : BitVec s.width) (base : Word32) (words : List InstrWord),
    (s.inWait = true → s.applyReset acc0 = .refused .resetDuringWait) ∧
    (s.run = .running → s.loadStore base words = .refused .loadDuringRun)

/-- DERIVED (10_state.md section 5, R30 and R31; decision D8). The codes the host reads for the run states and the causes
are the spec's numbers, and they tell the values apart. -/
def Obligations.StatusCodesAreTheSpecs : Prop :=
  RunState.code .running = 0 ∧ RunState.code .halted = 1 ∧ RunState.code .errored = 2 ∧
  FaultCause.code .none = 0 ∧ FaultCause.code .invalidAddress = 1 ∧ FaultCause.code .addressOutOfRange = 2 ∧
  FaultCause.code .unknownOpcode = 3 ∧
  (∀ s t : State, s.runBits = t.runBits → s.run = t.run) ∧
  (∀ s t : State, s.faultCauseBits = t.faultCauseBits → s.faultCause = t.faultCause)

/-! ## Headline statements -/

/-- DERIVED (log entries 9 and 13 to 14; 00_scope.md section 3). The invariant holds at reset, and at the start of every
legal launch. -/
def Obligations.InvariantHoldsAtReset : Prop :=
  State.reset.Inv ∧ ∀ l : Launch, l.wellFormed = true → (State.start l).Inv

/-- DERIVED (00_scope.md R8; 10_state.md R31, R32, R37; the canonical Data Store is log entry 9). Every step from every
state keeps the invariant: legal parameters, a canonical Data Store, a fault record that is set exactly in ERRORED,
a wait bit that is on only in RUNNING at an IN. -/
def Obligations.EveryStepKeepsInvariant : Prop :=
  ∀ s t : State, s.Inv → step s = .next t → t.Inv

/-- DERIVED (60_exceptions.md section 5, R223; 70_reset_and_hazards.md R242, R244; log entries 9, 11 and 21). What the
host does between steps keeps the invariant: presenting a value, an accepted reset, an accepted load of another
program. -/
def Obligations.HostMovesKeepInvariant : Prop :=
  (∀ (s : State) (v : Nat), s.Inv → (s.present v).Inv) ∧
  (∀ (s t : State) (acc0 : BitVec s.width), s.Inv → s.applyReset acc0 = .next t → t.Inv) ∧
  (∀ (s t : State) (base : Word32) (words : List InstrWord), s.Inv → s.loadStore base words = .next t → t.Inv)

/-- DERIVED (60_exceptions.md sections 1 and 2, R200 to R203, R207; 43_control.md R180; decisions D7, D8, D9). Every step
from every state keeps what a final state says of how the run ended: HALTED, the word before PC is an END; ERRORED,
the recorded condition did hold of the address, the operand or the opcode recorded. It holds at every start. -/
def Obligations.EndOfRunRecordIsTruthful : Prop :=
  (∀ l : Launch, (State.start l).endTruthful) ∧
  ∀ s t : State, s.endTruthful → step s = .next t → t.endTruthful

/-- DERIVED (40_cycle.md sections 1, 4 and 5, R100, R105, R107; 20_memory.md R55). The machine never stops in the model's
own fault or refusal: every instruction from every state, and every step from every state, answers a next state. The
MODEL's choices in it: in HALTED and ERRORED, where R100 enables no step, the model's step answers the same state
(log entry 7, DESIGN CHOICE); `Wait` and `Fatal` are next states (log entries 6 and 8, DEDUCED). -/
def Obligations.EveryStepAnswersANextState : Prop :=
  (∀ (i : Instr) (s : State), ∃ t, exec i s = .next t) ∧ ∀ s : State, ∃ t, step s = .next t

/-- DERIVED (10_state.md section 6, R34). The transient registers MAR, IR and DIR are unobservable: whatever they hold, a
step reaches the same state but for them. -/
def Obligations.TransientRegistersAreUnobservable : Prop :=
  ∀ (s : State) (m : Word32) (r : InstrWord) (d : Instr),
    ∃ (t : State) (m' : Word32) (r' : InstrWord) (d' : Instr),
      step s = .next t ∧ step { s with mar := m, ir := r, dir := d } = .next { t with mar := m', ir := r', dir := d' }

/-- DERIVED (60_exceptions.md section 5, R222; decision D16; log entry 6). The boundary before an IN that waits is observed
once, however many steps retry it. -/
def Obligations.WaitingBoundaryIsObservedOnce : Prop :=
  ∀ (s : State) (k : Nat), s.stuck → s.inWait = false → observations (k + 1) s = [s.snapshot]

/-! ## The host's load and the fetch port -/

/-- DERIVED (70_reset_and_hazards.md sections 1 and 2, R242, R244; 60_exceptions.md section 5, R223; 00_scope.md section 3,
R8; decisions D5, D22; log entries 10 and 21). In HALTED or ERRORED the host may load another program: N <= ICAP words at a
base with IBASE + ICAP <= 2^31 set ld_base and the Instruction Store and nothing else, and the reset that follows
starts a run at the base with those words, and no other, to fetch. More than ICAP words are refused
(93_implementation_defined.md section 1), and so is a base past the constraint of R8, which is the MODEL's choice (log entry
21, DESIGN CHOICE). -/
def Obligations.LoadAfterARunReplacesTheProgram : Prop :=
  ∀ (s : State) (base : Word32) (words : List InstrWord), s.final →
    (words.length ≤ s.icap → uint base + s.icap ≤ 2 ^ 31 →
      s.loadStore base words = .next { s with ldBase := base, imem := words } ∧
      ∀ acc0 : BitVec s.width, s.inWait = false →
        ∃ u, State.applyReset { s with ldBase := base, imem := words } acc0 = .next u ∧
          u.run = .running ∧ u.pc = base ∧ u.ldBase = base ∧ uint u.ldCount = words.length ∧
          (∀ k, k < words.length → u.iFetch (base + BitVec.ofNat 32 k) = words[k]?) ∧
          ∀ a : Word32, ¬ (uint base ≤ uint a ∧ uint a < uint base + words.length) → u.iFetch a = none) ∧
    (s.icap < words.length → s.loadStore base words = .refused .loadExceedsCapacity) ∧
    (words.length ≤ s.icap → 2 ^ 31 < uint base + s.icap → s.loadStore base words = .refused .loadBaseTooHigh)

/-- DERIVED (20_memory.md section 4, R54; 40_cycle.md section 2, R101, R102; port signals: decision D19; MAR and IR as state are
log entry 5, ld_count log entry 10). What the fetch port shows is what the step does: outside the range of its own
ld_base and ld_count no word is used and the run ends with InvalidAddress; inside it the word is the Instruction
Store's at that address; and a step that does not wait has latched the address driven, and the word. -/
def Obligations.FetchPortShowsTheFetch : Prop :=
  ∀ s : State, s.run = .running →
    ((ifPort s).word = none ↔
      ¬ (uint (ifPort s).ldBase ≤ uint (ifPort s).addr ∧
        uint (ifPort s).addr < uint (ifPort s).ldBase + uint (ifPort s).ldCount)) ∧
    (∀ w, (ifPort s).word = some w → s.imem[uint (ifPort s).addr - uint (ifPort s).ldBase]? = some w) ∧
    ∃ t, step s = .next t ∧
      ((ifPort s).word = none → t.run = .errored ∧ t.faultCause = .invalidAddress) ∧
      (t.inWait = false → t.mar = (ifPort s).addr ∧ ∀ w, (ifPort s).word = some w → t.ir = w)
end

