-- ==== Sys2Proof/Laws/State.lean ====
section
/-! SUPPORT. One lemma per field per named update of `State`, each true by `rfl`. The updates of `Memory` cells are
in Laws/Memory.lean; a state update keeps `width`, so that the types of the fields agree. -/

namespace Sys2Proof.Laws

open Sys2Proof.Machine

@[simp] theorem setAcc_width (s : State) (v : BitVec s.width) : (s.setAcc v).width = s.width := rfl
@[simp] theorem setAcc_icap (s : State) (v : BitVec s.width) : (s.setAcc v).icap = s.icap := rfl
@[simp] theorem setAcc_ldBase (s : State) (v : BitVec s.width) : (s.setAcc v).ldBase = s.ldBase := rfl
@[simp] theorem setAcc_imem (s : State) (v : BitVec s.width) : (s.setAcc v).imem = s.imem := rfl
@[simp] theorem setAcc_acc (s : State) (v : BitVec s.width) : (s.setAcc v).acc = v := rfl
@[simp] theorem setAcc_pc (s : State) (v : BitVec s.width) : (s.setAcc v).pc = s.pc := rfl
@[simp] theorem setAcc_ds (s : State) (v : BitVec s.width) : (s.setAcc v).ds = s.ds := rfl
@[simp] theorem setAcc_run (s : State) (v : BitVec s.width) : (s.setAcc v).run = s.run := rfl
@[simp] theorem setAcc_faultCause (s : State) (v : BitVec s.width) : (s.setAcc v).faultCause = s.faultCause := rfl
@[simp] theorem setAcc_faultInfo (s : State) (v : BitVec s.width) : (s.setAcc v).faultInfo = s.faultInfo := rfl
@[simp] theorem setAcc_mar (s : State) (v : BitVec s.width) : (s.setAcc v).mar = s.mar := rfl
@[simp] theorem setAcc_ir (s : State) (v : BitVec s.width) : (s.setAcc v).ir = s.ir := rfl
@[simp] theorem setAcc_dir (s : State) (v : BitVec s.width) : (s.setAcc v).dir = s.dir := rfl
@[simp] theorem setAcc_inWait (s : State) (v : BitVec s.width) : (s.setAcc v).inWait = s.inWait := rfl
@[simp] theorem setAcc_input (s : State) (v : BitVec s.width) : (s.setAcc v).input = s.input := rfl
@[simp] theorem setAcc_output (s : State) (v : BitVec s.width) : (s.setAcc v).output = s.output := rfl

@[simp] theorem setPc_width (s : State) (a : Word32) : (s.setPc a).width = s.width := rfl
@[simp] theorem setPc_icap (s : State) (a : Word32) : (s.setPc a).icap = s.icap := rfl
@[simp] theorem setPc_ldBase (s : State) (a : Word32) : (s.setPc a).ldBase = s.ldBase := rfl
@[simp] theorem setPc_imem (s : State) (a : Word32) : (s.setPc a).imem = s.imem := rfl
@[simp] theorem setPc_acc (s : State) (a : Word32) : (s.setPc a).acc = s.acc := rfl
@[simp] theorem setPc_pc (s : State) (a : Word32) : (s.setPc a).pc = a := rfl
@[simp] theorem setPc_ds (s : State) (a : Word32) : (s.setPc a).ds = s.ds := rfl
@[simp] theorem setPc_run (s : State) (a : Word32) : (s.setPc a).run = s.run := rfl
@[simp] theorem setPc_faultCause (s : State) (a : Word32) : (s.setPc a).faultCause = s.faultCause := rfl
@[simp] theorem setPc_faultInfo (s : State) (a : Word32) : (s.setPc a).faultInfo = s.faultInfo := rfl
@[simp] theorem setPc_mar (s : State) (a : Word32) : (s.setPc a).mar = s.mar := rfl
@[simp] theorem setPc_ir (s : State) (a : Word32) : (s.setPc a).ir = s.ir := rfl
@[simp] theorem setPc_dir (s : State) (a : Word32) : (s.setPc a).dir = s.dir := rfl
@[simp] theorem setPc_inWait (s : State) (a : Word32) : (s.setPc a).inWait = s.inWait := rfl
@[simp] theorem setPc_input (s : State) (a : Word32) : (s.setPc a).input = s.input := rfl
@[simp] theorem setPc_output (s : State) (a : Word32) : (s.setPc a).output = s.output := rfl

@[simp] theorem advancePc_width (s : State) : (s.advancePc).width = s.width := rfl
@[simp] theorem advancePc_icap (s : State) : (s.advancePc).icap = s.icap := rfl
@[simp] theorem advancePc_ldBase (s : State) : (s.advancePc).ldBase = s.ldBase := rfl
@[simp] theorem advancePc_imem (s : State) : (s.advancePc).imem = s.imem := rfl
@[simp] theorem advancePc_acc (s : State) : (s.advancePc).acc = s.acc := rfl
@[simp] theorem advancePc_pc (s : State) : (s.advancePc).pc = s.pc + 1 := rfl
@[simp] theorem advancePc_ds (s : State) : (s.advancePc).ds = s.ds := rfl
@[simp] theorem advancePc_run (s : State) : (s.advancePc).run = s.run := rfl
@[simp] theorem advancePc_faultCause (s : State) : (s.advancePc).faultCause = s.faultCause := rfl
@[simp] theorem advancePc_faultInfo (s : State) : (s.advancePc).faultInfo = s.faultInfo := rfl
@[simp] theorem advancePc_mar (s : State) : (s.advancePc).mar = s.mar := rfl
@[simp] theorem advancePc_ir (s : State) : (s.advancePc).ir = s.ir := rfl
@[simp] theorem advancePc_dir (s : State) : (s.advancePc).dir = s.dir := rfl
@[simp] theorem advancePc_inWait (s : State) : (s.advancePc).inWait = s.inWait := rfl
@[simp] theorem advancePc_input (s : State) : (s.advancePc).input = s.input := rfl
@[simp] theorem advancePc_output (s : State) : (s.advancePc).output = s.output := rfl

@[simp] theorem setInWait_width (s : State) : (s.setInWait).width = s.width := rfl
@[simp] theorem setInWait_icap (s : State) : (s.setInWait).icap = s.icap := rfl
@[simp] theorem setInWait_ldBase (s : State) : (s.setInWait).ldBase = s.ldBase := rfl
@[simp] theorem setInWait_imem (s : State) : (s.setInWait).imem = s.imem := rfl
@[simp] theorem setInWait_acc (s : State) : (s.setInWait).acc = s.acc := rfl
@[simp] theorem setInWait_pc (s : State) : (s.setInWait).pc = s.pc := rfl
@[simp] theorem setInWait_ds (s : State) : (s.setInWait).ds = s.ds := rfl
@[simp] theorem setInWait_run (s : State) : (s.setInWait).run = s.run := rfl
@[simp] theorem setInWait_faultCause (s : State) : (s.setInWait).faultCause = s.faultCause := rfl
@[simp] theorem setInWait_faultInfo (s : State) : (s.setInWait).faultInfo = s.faultInfo := rfl
@[simp] theorem setInWait_mar (s : State) : (s.setInWait).mar = s.mar := rfl
@[simp] theorem setInWait_ir (s : State) : (s.setInWait).ir = s.ir := rfl
@[simp] theorem setInWait_dir (s : State) : (s.setInWait).dir = s.dir := rfl
@[simp] theorem setInWait_inWait (s : State) : (s.setInWait).inWait = true := rfl
@[simp] theorem setInWait_input (s : State) : (s.setInWait).input = s.input := rfl
@[simp] theorem setInWait_output (s : State) : (s.setInWait).output = s.output := rfl

@[simp] theorem outEmit_width (s : State) (v : BitVec s.width) : (s.outEmit v).width = s.width := rfl
@[simp] theorem outEmit_icap (s : State) (v : BitVec s.width) : (s.outEmit v).icap = s.icap := rfl
@[simp] theorem outEmit_ldBase (s : State) (v : BitVec s.width) : (s.outEmit v).ldBase = s.ldBase := rfl
@[simp] theorem outEmit_imem (s : State) (v : BitVec s.width) : (s.outEmit v).imem = s.imem := rfl
@[simp] theorem outEmit_acc (s : State) (v : BitVec s.width) : (s.outEmit v).acc = s.acc := rfl
@[simp] theorem outEmit_pc (s : State) (v : BitVec s.width) : (s.outEmit v).pc = s.pc := rfl
@[simp] theorem outEmit_ds (s : State) (v : BitVec s.width) : (s.outEmit v).ds = s.ds := rfl
@[simp] theorem outEmit_run (s : State) (v : BitVec s.width) : (s.outEmit v).run = s.run := rfl
@[simp] theorem outEmit_faultCause (s : State) (v : BitVec s.width) : (s.outEmit v).faultCause = s.faultCause := rfl
@[simp] theorem outEmit_faultInfo (s : State) (v : BitVec s.width) : (s.outEmit v).faultInfo = s.faultInfo := rfl
@[simp] theorem outEmit_mar (s : State) (v : BitVec s.width) : (s.outEmit v).mar = s.mar := rfl
@[simp] theorem outEmit_ir (s : State) (v : BitVec s.width) : (s.outEmit v).ir = s.ir := rfl
@[simp] theorem outEmit_dir (s : State) (v : BitVec s.width) : (s.outEmit v).dir = s.dir := rfl
@[simp] theorem outEmit_inWait (s : State) (v : BitVec s.width) : (s.outEmit v).inWait = s.inWait := rfl
@[simp] theorem outEmit_input (s : State) (v : BitVec s.width) : (s.outEmit v).input = s.input := rfl
@[simp] theorem outEmit_output (s : State) (v : BitVec s.width) : (s.outEmit v).output = s.output ++ [v] := rfl

@[simp] theorem signalHalt_width (s : State) : (s.signalHalt).width = s.width := rfl
@[simp] theorem signalHalt_icap (s : State) : (s.signalHalt).icap = s.icap := rfl
@[simp] theorem signalHalt_ldBase (s : State) : (s.signalHalt).ldBase = s.ldBase := rfl
@[simp] theorem signalHalt_imem (s : State) : (s.signalHalt).imem = s.imem := rfl
@[simp] theorem signalHalt_acc (s : State) : (s.signalHalt).acc = s.acc := rfl
@[simp] theorem signalHalt_pc (s : State) : (s.signalHalt).pc = s.pc := rfl
@[simp] theorem signalHalt_ds (s : State) : (s.signalHalt).ds = s.ds := rfl
@[simp] theorem signalHalt_run (s : State) : (s.signalHalt).run = .halted := rfl
@[simp] theorem signalHalt_faultCause (s : State) : (s.signalHalt).faultCause = s.faultCause := rfl
@[simp] theorem signalHalt_faultInfo (s : State) : (s.signalHalt).faultInfo = s.faultInfo := rfl
@[simp] theorem signalHalt_mar (s : State) : (s.signalHalt).mar = s.mar := rfl
@[simp] theorem signalHalt_ir (s : State) : (s.signalHalt).ir = s.ir := rfl
@[simp] theorem signalHalt_dir (s : State) : (s.signalHalt).dir = s.dir := rfl
@[simp] theorem signalHalt_inWait (s : State) : (s.signalHalt).inWait = s.inWait := rfl
@[simp] theorem signalHalt_input (s : State) : (s.signalHalt).input = s.input := rfl
@[simp] theorem signalHalt_output (s : State) : (s.signalHalt).output = s.output := rfl

@[simp] theorem raiseFatal_width (s : State) (c : FaultCause) (x : Word32) : (s.raiseFatal c x).width = s.width := rfl
@[simp] theorem raiseFatal_icap (s : State) (c : FaultCause) (x : Word32) : (s.raiseFatal c x).icap = s.icap := rfl
@[simp] theorem raiseFatal_ldBase (s : State) (c : FaultCause) (x : Word32) : (s.raiseFatal c x).ldBase = s.ldBase := rfl
@[simp] theorem raiseFatal_imem (s : State) (c : FaultCause) (x : Word32) : (s.raiseFatal c x).imem = s.imem := rfl
@[simp] theorem raiseFatal_acc (s : State) (c : FaultCause) (x : Word32) : (s.raiseFatal c x).acc = s.acc := rfl
@[simp] theorem raiseFatal_pc (s : State) (c : FaultCause) (x : Word32) : (s.raiseFatal c x).pc = s.pc := rfl
@[simp] theorem raiseFatal_ds (s : State) (c : FaultCause) (x : Word32) : (s.raiseFatal c x).ds = s.ds := rfl
@[simp] theorem raiseFatal_run (s : State) (c : FaultCause) (x : Word32) : (s.raiseFatal c x).run = .errored := rfl
@[simp] theorem raiseFatal_faultCause (s : State) (c : FaultCause) (x : Word32) : (s.raiseFatal c x).faultCause = c := rfl
@[simp] theorem raiseFatal_faultInfo (s : State) (c : FaultCause) (x : Word32) : (s.raiseFatal c x).faultInfo = x := rfl
@[simp] theorem raiseFatal_mar (s : State) (c : FaultCause) (x : Word32) : (s.raiseFatal c x).mar = s.mar := rfl
@[simp] theorem raiseFatal_ir (s : State) (c : FaultCause) (x : Word32) : (s.raiseFatal c x).ir = s.ir := rfl
@[simp] theorem raiseFatal_dir (s : State) (c : FaultCause) (x : Word32) : (s.raiseFatal c x).dir = s.dir := rfl
@[simp] theorem raiseFatal_inWait (s : State) (c : FaultCause) (x : Word32) : (s.raiseFatal c x).inWait = s.inWait := rfl
@[simp] theorem raiseFatal_input (s : State) (c : FaultCause) (x : Word32) : (s.raiseFatal c x).input = s.input := rfl
@[simp] theorem raiseFatal_output (s : State) (c : FaultCause) (x : Word32) : (s.raiseFatal c x).output = s.output := rfl

@[simp] theorem latchAddress_width (s : State) : (s.latchAddress).width = s.width := rfl
@[simp] theorem latchAddress_icap (s : State) : (s.latchAddress).icap = s.icap := rfl
@[simp] theorem latchAddress_ldBase (s : State) : (s.latchAddress).ldBase = s.ldBase := rfl
@[simp] theorem latchAddress_imem (s : State) : (s.latchAddress).imem = s.imem := rfl
@[simp] theorem latchAddress_acc (s : State) : (s.latchAddress).acc = s.acc := rfl
@[simp] theorem latchAddress_pc (s : State) : (s.latchAddress).pc = s.pc := rfl
@[simp] theorem latchAddress_ds (s : State) : (s.latchAddress).ds = s.ds := rfl
@[simp] theorem latchAddress_run (s : State) : (s.latchAddress).run = s.run := rfl
@[simp] theorem latchAddress_faultCause (s : State) : (s.latchAddress).faultCause = s.faultCause := rfl
@[simp] theorem latchAddress_faultInfo (s : State) : (s.latchAddress).faultInfo = s.faultInfo := rfl
@[simp] theorem latchAddress_mar (s : State) : (s.latchAddress).mar = s.pc := rfl
@[simp] theorem latchAddress_ir (s : State) : (s.latchAddress).ir = s.ir := rfl
@[simp] theorem latchAddress_dir (s : State) : (s.latchAddress).dir = s.dir := rfl
@[simp] theorem latchAddress_inWait (s : State) : (s.latchAddress).inWait = false := rfl
@[simp] theorem latchAddress_input (s : State) : (s.latchAddress).input = s.input := rfl
@[simp] theorem latchAddress_output (s : State) : (s.latchAddress).output = s.output := rfl

@[simp] theorem latchWord_width (s : State) (x : InstrWord) : (s.latchWord x).width = s.width := rfl
@[simp] theorem latchWord_icap (s : State) (x : InstrWord) : (s.latchWord x).icap = s.icap := rfl
@[simp] theorem latchWord_ldBase (s : State) (x : InstrWord) : (s.latchWord x).ldBase = s.ldBase := rfl
@[simp] theorem latchWord_imem (s : State) (x : InstrWord) : (s.latchWord x).imem = s.imem := rfl
@[simp] theorem latchWord_acc (s : State) (x : InstrWord) : (s.latchWord x).acc = s.acc := rfl
@[simp] theorem latchWord_pc (s : State) (x : InstrWord) : (s.latchWord x).pc = s.pc + 1 := rfl
@[simp] theorem latchWord_ds (s : State) (x : InstrWord) : (s.latchWord x).ds = s.ds := rfl
@[simp] theorem latchWord_run (s : State) (x : InstrWord) : (s.latchWord x).run = s.run := rfl
@[simp] theorem latchWord_faultCause (s : State) (x : InstrWord) : (s.latchWord x).faultCause = s.faultCause := rfl
@[simp] theorem latchWord_faultInfo (s : State) (x : InstrWord) : (s.latchWord x).faultInfo = s.faultInfo := rfl
@[simp] theorem latchWord_mar (s : State) (x : InstrWord) : (s.latchWord x).mar = s.mar := rfl
@[simp] theorem latchWord_ir (s : State) (x : InstrWord) : (s.latchWord x).ir = x := rfl
@[simp] theorem latchWord_dir (s : State) (x : InstrWord) : (s.latchWord x).dir = s.dir := rfl
@[simp] theorem latchWord_inWait (s : State) (x : InstrWord) : (s.latchWord x).inWait = s.inWait := rfl
@[simp] theorem latchWord_input (s : State) (x : InstrWord) : (s.latchWord x).input = s.input := rfl
@[simp] theorem latchWord_output (s : State) (x : InstrWord) : (s.latchWord x).output = s.output := rfl

@[simp] theorem latchDecoded_width (s : State) (i : Instr) : (s.latchDecoded i).width = s.width := rfl
@[simp] theorem latchDecoded_icap (s : State) (i : Instr) : (s.latchDecoded i).icap = s.icap := rfl
@[simp] theorem latchDecoded_ldBase (s : State) (i : Instr) : (s.latchDecoded i).ldBase = s.ldBase := rfl
@[simp] theorem latchDecoded_imem (s : State) (i : Instr) : (s.latchDecoded i).imem = s.imem := rfl
@[simp] theorem latchDecoded_acc (s : State) (i : Instr) : (s.latchDecoded i).acc = s.acc := rfl
@[simp] theorem latchDecoded_pc (s : State) (i : Instr) : (s.latchDecoded i).pc = s.pc := rfl
@[simp] theorem latchDecoded_ds (s : State) (i : Instr) : (s.latchDecoded i).ds = s.ds := rfl
@[simp] theorem latchDecoded_run (s : State) (i : Instr) : (s.latchDecoded i).run = s.run := rfl
@[simp] theorem latchDecoded_faultCause (s : State) (i : Instr) : (s.latchDecoded i).faultCause = s.faultCause := rfl
@[simp] theorem latchDecoded_faultInfo (s : State) (i : Instr) : (s.latchDecoded i).faultInfo = s.faultInfo := rfl
@[simp] theorem latchDecoded_mar (s : State) (i : Instr) : (s.latchDecoded i).mar = s.mar := rfl
@[simp] theorem latchDecoded_ir (s : State) (i : Instr) : (s.latchDecoded i).ir = s.ir := rfl
@[simp] theorem latchDecoded_dir (s : State) (i : Instr) : (s.latchDecoded i).dir = i := rfl
@[simp] theorem latchDecoded_inWait (s : State) (i : Instr) : (s.latchDecoded i).inWait = s.inWait := rfl
@[simp] theorem latchDecoded_input (s : State) (i : Instr) : (s.latchDecoded i).input = s.input := rfl
@[simp] theorem latchDecoded_output (s : State) (i : Instr) : (s.latchDecoded i).output = s.output := rfl

@[simp] theorem fetched_width (s : State) (x : InstrWord) (i : Instr) : (s.fetched x i).width = s.width := rfl
@[simp] theorem fetched_icap (s : State) (x : InstrWord) (i : Instr) : (s.fetched x i).icap = s.icap := rfl
@[simp] theorem fetched_ldBase (s : State) (x : InstrWord) (i : Instr) : (s.fetched x i).ldBase = s.ldBase := rfl
@[simp] theorem fetched_imem (s : State) (x : InstrWord) (i : Instr) : (s.fetched x i).imem = s.imem := rfl
@[simp] theorem fetched_acc (s : State) (x : InstrWord) (i : Instr) : (s.fetched x i).acc = s.acc := rfl
@[simp] theorem fetched_pc (s : State) (x : InstrWord) (i : Instr) : (s.fetched x i).pc = s.pc + 1 := rfl
@[simp] theorem fetched_ds (s : State) (x : InstrWord) (i : Instr) : (s.fetched x i).ds = s.ds := rfl
@[simp] theorem fetched_run (s : State) (x : InstrWord) (i : Instr) : (s.fetched x i).run = s.run := rfl
@[simp] theorem fetched_faultCause (s : State) (x : InstrWord) (i : Instr) : (s.fetched x i).faultCause = s.faultCause := rfl
@[simp] theorem fetched_faultInfo (s : State) (x : InstrWord) (i : Instr) : (s.fetched x i).faultInfo = s.faultInfo := rfl
@[simp] theorem fetched_mar (s : State) (x : InstrWord) (i : Instr) : (s.fetched x i).mar = s.pc := rfl
@[simp] theorem fetched_ir (s : State) (x : InstrWord) (i : Instr) : (s.fetched x i).ir = x := rfl
@[simp] theorem fetched_dir (s : State) (x : InstrWord) (i : Instr) : (s.fetched x i).dir = i := rfl
@[simp] theorem fetched_inWait (s : State) (x : InstrWord) (i : Instr) : (s.fetched x i).inWait = false := rfl
@[simp] theorem fetched_input (s : State) (x : InstrWord) (i : Instr) : (s.fetched x i).input = s.input := rfl
@[simp] theorem fetched_output (s : State) (x : InstrWord) (i : Instr) : (s.fetched x i).output = s.output := rfl

/-- `ld_count` counts no word that is not loaded (20_memory.md R54). -/
theorem uint_ldCount_le (s : State) : uint s.ldCount ≤ s.imem.length := by
  simp only [uint, State.ldCount, BitVec.toNat_ofNat]; exact Nat.mod_le _ _

/-- `ld_count` is `N` for every program that fits the instruction space (20_memory.md R54; 00_scope.md R8). -/
theorem uint_ldCount_eq {s : State} (h : s.imem.length < 2 ^ 32) : uint s.ldCount = s.imem.length := by
  simp only [uint, State.ldCount, BitVec.toNat_ofNat]; exact Nat.mod_eq_of_lt h

/-- The loaded range `[IBASE, IBASE+N)`, on the unsigned readings (20_memory.md R53). -/
theorem inLoadedRange_iff (s : State) (a : Word32) :
    s.inLoadedRange a = true ↔ uint s.ldBase ≤ uint a ∧ uint a < uint s.ldBase + uint s.ldCount := by
  simp only [State.inLoadedRange, Bool.and_eq_true, decide_eq_true_eq]

/-- Two states with the same inputs of the fetch port fetch the same word. -/
theorem iFetch_congr {s t : State} (hb : t.ldBase = s.ldBase) (hm : t.imem = s.imem) (a : Word32) :
    t.iFetch a = s.iFetch a := by
  have h : t.inLoadedRange a = s.inLoadedRange a := by
    rw [Bool.eq_iff_iff, inLoadedRange_iff, inLoadedRange_iff, State.ldCount, State.ldCount, hb, hm]
  rw [State.iFetch, State.iFetch, h, hb, hm]

/-- A fetch answers a word exactly in the loaded range (20_memory.md R53). -/
theorem iFetch_isSome (s : State) (a : Word32) : (s.iFetch a).isSome = s.inLoadedRange a := by
  unfold State.iFetch
  split
  · rename_i h
    have := (inLoadedRange_iff s a).1 h
    have := uint_ldCount_le s
    rw [h, List.getElem?_eq_getElem (by omega)]
    rfl
  · simp_all

theorem iFetch_eq_none_iff (s : State) (a : Word32) : s.iFetch a = none ↔ s.inLoadedRange a = false := by
  rw [← iFetch_isSome]; cases s.iFetch a <;> simp

end Sys2Proof.Laws
end

