-- ==== Sys2Proof/Laws/Environment.lean ====
section
/-! SUPPORT. For each move of the host, once, everything it can do. -/

namespace Sys2Proof.Laws

open Sys2Proof.Machine

/-- An accepted load: when the host may load, and all it changes (60_exceptions.md R223). -/
theorem loadStore_next_iff (s t : State) (base : Word32) (words : List InstrWord) :
    s.loadStore base words = .next t ↔
      s.run ≠ .running ∧ words.length ≤ s.icap ∧ uint base + s.icap ≤ 2 ^ 31 ∧
        t = { s with ldBase := base, imem := words } := by
  have hlt : ∀ a b : Nat, a < b ↔ ¬ b ≤ a := fun a b => by omega
  by_cases hn : words.length ≤ s.icap <;> by_cases hb : uint base + s.icap ≤ 2 ^ 31 <;> cases hr : s.run <;>
    simp only [State.loadStore, hr, hlt, hn, hb, eq_comm (a := t)] <;> simp

/-- An accepted reset applied again: when it is accepted, and all it changes (70_reset_and_hazards.md R240, R242). -/
theorem applyReset_next_iff (s t : State) (acc0 : BitVec s.width) :
    s.applyReset acc0 = .next t ↔
      s.inWait = false ∧
        t = { s with
          run := .running, faultCause := .none, faultInfo := 0, pc := s.ldBase, acc := acc0, ds := [], output := [] } := by
  cases h : s.inWait <;> simp [State.applyReset, h, eq_comm]

@[simp] theorem present_input (s : State) (v : Nat) :
    (s.present v).input = s.input ++ [BitVec.ofNat s.width v] := rfl

end Sys2Proof.Laws
end

