-- ==== Sys2Proof/Laws/Memory.lean ====
section
/-! SUPPORT. The data memory: what a read after a write gives, and that a write keeps the canonical form. -/

namespace Sys2Proof.Laws

open Sys2Proof.Machine

variable {w : Nat}

@[simp] theorem read_nil (a : Nat) : Memory.read ([] : Memory w) a = 0 := rfl

theorem read_cons (e : Nat × BitVec w) (m : Memory w) (a : Nat) :
    Memory.read (e :: m) a = if e.1 = a then e.2 else Memory.read m a := rfl

/-- Removing an address makes it read 0 and leaves every other address. -/
theorem read_remove (m : Memory w) (a b : Nat) : (m.remove a).read b = if b = a then 0 else m.read b := by
  induction m with
  | nil => simp [Memory.remove]
  | cons e m ih =>
    simp only [Memory.remove] at ih ⊢
    by_cases h : e.1 = a
    · rw [List.filter_cons_of_neg (by simpa using h), ih, read_cons]
      by_cases hb : b = a
      · rw [if_pos hb, if_pos hb]
      · rw [if_neg hb, if_neg hb, if_neg fun h' => hb (h'.symm.trans h)]
    · rw [List.filter_cons_of_pos (by simpa using h), read_cons, read_cons, ih]
      by_cases hb : e.1 = b
      · rw [if_pos hb, if_pos hb, if_neg fun h' => h (hb.trans h')]
      · rw [if_neg hb, if_neg hb]

/-- Inserting at an address that reads 0 gives the value there and leaves every other address. -/
theorem read_insert (m : Memory w) (a b : Nat) (v : BitVec w) (h : ∀ e ∈ m, e.1 ≠ a) :
    (m.insert a v).read b = if b = a then v else m.read b := by
  induction m with
  | nil => simp only [Memory.insert, read_cons, read_nil, eq_comm]
  | cons e m ih =>
    have hm : ∀ e ∈ m, e.1 ≠ a := fun x hx => h x (List.mem_cons_of_mem _ hx)
    have he : e.1 ≠ a := h e List.mem_cons_self
    simp only [Memory.insert]
    split
    · rw [read_cons]; simp only [eq_comm]
    · rw [read_cons, ih hm, read_cons]
      split
      · rename_i h1; rw [if_neg (fun h2 => he (h1.trans h2))]
      · rfl

theorem remove_ne (m : Memory w) (a : Nat) : ∀ e ∈ m.remove a, e.1 ≠ a := by
  intro e he
  simp only [Memory.remove, List.mem_filter, bne_iff_ne] at he
  exact he.2

/-- A canonical memory from a bound is canonical from a smaller bound. -/
theorem wfFrom_mono {lo lo' : Nat} (h : lo' ≤ lo) {m : Memory w} (hm : Memory.wfFrom lo m = true) :
    Memory.wfFrom lo' m = true := by
  cases m with
  | nil => rfl
  | cons e m =>
    simp only [Memory.wfFrom, Bool.and_eq_true, decide_eq_true_eq] at hm ⊢
    exact ⟨⟨⟨h.trans hm.1.1.1, hm.1.1.2⟩, hm.1.2⟩, hm.2⟩

theorem wfFrom_remove (lo : Nat) (m : Memory w) (a : Nat) (hm : Memory.wfFrom lo m = true) :
    Memory.wfFrom lo (m.remove a) = true := by
  induction m generalizing lo with
  | nil => rfl
  | cons e m ih =>
    simp only [Memory.wfFrom, Bool.and_eq_true, decide_eq_true_eq] at hm
    have := ih _ hm.2
    simp only [Memory.remove] at this ⊢
    rw [List.filter_cons]
    split
    · simp only [Memory.wfFrom, Bool.and_eq_true, decide_eq_true_eq]; exact ⟨hm.1, this⟩
    · exact wfFrom_mono (by omega) this

theorem wfFrom_insert (lo : Nat) (m : Memory w) (a : Nat) (v : BitVec w) (hm : Memory.wfFrom lo m = true)
    (hlo : lo ≤ a) (ha : a < Config.dsSize) (hv : v ≠ 0) (hne : ∀ e ∈ m, e.1 ≠ a) :
    Memory.wfFrom lo (m.insert a v) = true := by
  induction m generalizing lo with
  | nil =>
    simp only [Memory.insert, Memory.wfFrom, Bool.and_eq_true, decide_eq_true_eq]
    exact ⟨⟨⟨hlo, ha⟩, hv⟩, trivial⟩
  | cons e m ih =>
    simp only [Memory.wfFrom, Bool.and_eq_true, decide_eq_true_eq] at hm
    have he : e.1 ≠ a := hne e List.mem_cons_self
    simp only [Memory.insert]
    split
    · simp only [Memory.wfFrom, Bool.and_eq_true, decide_eq_true_eq]
      exact ⟨⟨⟨hlo, ha⟩, hv⟩, ⟨⟨⟨by omega, hm.1.1.2⟩, hm.1.2⟩, hm.2⟩⟩
    · simp only [Memory.wfFrom, Bool.and_eq_true, decide_eq_true_eq]
      exact ⟨hm.1, ih _ hm.2 (by omega) fun x hx => hne x (List.mem_cons_of_mem _ hx)⟩

/-- Below its bound a canonical memory reads 0. -/
theorem read_of_wfFrom {lo : Nat} {m : Memory w} (hm : Memory.wfFrom lo m = true) {a : Nat} (ha : a < lo) :
    m.read a = 0 := by
  induction m generalizing lo with
  | nil => rfl
  | cons e m ih =>
    simp only [Memory.wfFrom, Bool.and_eq_true, decide_eq_true_eq] at hm
    rw [read_cons, if_neg (by omega)]
    exact ih hm.2 (by omega)

/-- A canonical memory reads 0 at every address from 10 up. -/
theorem read_of_wf_ge {m : Memory w} (lo : Nat) (hm : Memory.wfFrom lo m = true) {a : Nat} (ha : Config.dsSize ≤ a) :
    m.read a = 0 := by
  induction m generalizing lo with
  | nil => rfl
  | cons e m ih =>
    simp only [Memory.wfFrom, Bool.and_eq_true, decide_eq_true_eq] at hm
    rw [read_cons, if_neg (by omega)]
    exact ih _ hm.2

end Sys2Proof.Laws
end

