-- ==== Sys2Proof/Laws/Word.lean ====
section
/-! SUPPORT. The formulas of 00_scope.md R10 for the integer readings. -/

namespace Sys2Proof.Laws

/-- R10: `sint(v) = uint(v) - v[n-1] * 2^n`. -/
theorem sint_eq_uint_sub {n : Nat} (v : BitVec n) : sint v = (uint v : Int) - (if v.msb then 2 ^ n else 0) := by
  rw [sint, BitVec.toInt_eq_msb_cond]
  split <;> simp

/-- R10: the unsigned value of `bv_n(k)` is `k mod 2^n`. -/
theorem uint_bv (n : Nat) (k : Int) : (uint (bv n k) : Int) = k % 2 ^ n := by
  have h : (0 : Int) ≤ k % 2 ^ n := Int.emod_nonneg _ (by positivity)
  simp [uint, bv, BitVec.toNat_ofInt, h]

/-- A value that is not negative reads the same as signed and as unsigned. -/
theorem toNat_sint {n : Nat} {v : BitVec n} (h0 : 0 ≤ sint v) : (sint v).toNat = uint v := by
  have h1 := BitVec.toInt_eq_toNat_cond v
  have h2 := v.isLt
  simp only [sint, uint] at *
  split at h1 <;> omega

/-- `bv` undoes `sint`. -/
@[simp] theorem bv_sint {n : Nat} (v : BitVec n) : bv n (sint v) = v := by simp [bv, sint]

/-- `bv` undoes `uint`. -/
@[simp] theorem bv_uint {n : Nat} (v : BitVec n) : bv n (uint v : Int) = v := by simp [bv, uint]

end Sys2Proof.Laws
end

