-- ==== Sys2Proof/Laws/Ops.lean ====
section
/-! SUPPORT. For each shared operation, once, everything it can do. -/

namespace Sys2Proof.Laws

open Sys2Proof.Machine

/-! ## The operand forms -/

theorem dataAddressLegal_iff (opd : Word32) : dataAddressLegal opd = true ↔ 0 ≤ sint opd ∧ sint opd ≤ 9 := by
  simp [dataAddressLegal]

/-- An illegal data address drives no port address (20_memory.md R52). -/
theorem dataAddress_illegal {opd : Word32} (h : dataAddressLegal opd = false) : dataAddress opd = none := by
  simp [dataAddress, h]

/-- A legal data address drives its four low bits, which are its value, 0 to 9 (20_memory.md R55). -/
theorem dataAddress_legal {opd : Word32} (h : dataAddressLegal opd = true) :
    ∃ a : BitVec 4, dataAddress opd = some a ∧ uint a = (sint opd).toNat ∧ uint a < Config.dsSize := by
  obtain ⟨h0, h9⟩ := (dataAddressLegal_iff opd).1 h
  have hu := toNat_sint h0
  refine ⟨opd.extractLsb' 0 4, by simp [dataAddress, h], ?_⟩
  have : uint (opd.extractLsb' 0 4) = uint opd := by
    simp only [uint, sint] at *
    simp only [BitVec.extractLsb'_toNat, Nat.shiftRight_zero]
    omega
  simp only [Config.dsSize]
  omega

/-! ## Memory -/

/-- A read after a write: the written cell reads the value, every other cell reads as before (20_memory.md R60). -/
theorem read_write {w : Nat} (m : Memory w) (a b : Nat) (v : BitVec w) :
    (m.write a v).read b = if b = a then v else m.read b := by
  unfold Memory.write
  split
  · rename_i h; rw [read_remove]; split <;> simp_all
  · rw [read_insert _ _ _ _ (remove_ne m a), read_remove]
    split <;> rfl

/-- A write in range keeps the canonical form. -/
theorem wf_write {w : Nat} {m : Memory w} (hm : Memory.wf m = true) {a : Nat} (ha : a < Config.dsSize) (v : BitVec w) :
    Memory.wf (m.write a v) = true := by
  unfold Memory.write
  split
  · exact wfFrom_remove 0 m a hm
  · rename_i hv
    exact wfFrom_insert 0 _ a v (wfFrom_remove 0 m a hm) (Nat.zero_le _) ha hv (remove_ne m a)

/-- The empty memory is canonical: the Data Store after reset. -/
theorem wf_nil {w : Nat} : Memory.wf ([] : Memory w) = true := rfl

/-! ## Arithmetic (00_scope.md R11) -/

@[simp] theorem addW_eq {w : Nat} (a b : BitVec w) : addW a b = a + b := by
  simp [addW, bv, uint, BitVec.ofInt_add]

@[simp] theorem subW_eq {w : Nat} (a b : BitVec w) : subW a b = a - b := by
  apply BitVec.eq_of_toInt_eq
  rw [subW, BitVec.toInt_ofInt, BitVec.toInt_sub, BitVec.toInt_eq_toNat_bmod, BitVec.toInt_eq_toNat_bmod,
    Int.sub_bmod_bmod, Int.bmod_sub_bmod]

/-! ## The data-memory port and the data-memory parts -/

/-- The read transaction, in one equation (20_memory.md R55). -/
theorem dmRead_eq (s : State) (a : BitVec 4) :
    s.dmRead a = if uint a < Config.dsSize then .ok (s.cell (uint a)) else .error (.dataPortAddress a) := rfl

/-- The write transaction, in one equation (20_memory.md R55). -/
theorem dmWrite_eq (s : State) (a : BitVec 4) (v : BitVec s.width) :
    s.dmWrite a v =
      if uint a < Config.dsSize then .ok { s with ds := Memory.write s.ds (uint a) v }
      else .error (.dataPortAddress a) := rfl

/-- What LOAD, ADD and SUB share, in one equation (41_data_memory.md R134). -/
theorem accFromCell_eq (opd : Word32) (s : State) (f : BitVec s.width → BitVec s.width) :
    accFromCell opd s f =
      if dataAddressLegal opd then .next (s.setAcc (f (s.cell (sint opd).toNat)))
      else .next (s.raiseFatal .addressOutOfRange opd) := by
  unfold accFromCell
  cases h : dataAddressLegal opd
  · simp [dataAddress_illegal h]
  · obtain ⟨a, ha, hv, hlt⟩ := dataAddress_legal h
    simp only [ha, dmRead_eq, hv, if_pos (hv ▸ hlt), if_true]

/-- The part of STORE, in one equation (41_data_memory.md R132, R134). -/
theorem cellFromValue_eq (opd : Word32) (s : State) (v : BitVec s.width) :
    cellFromValue opd s v =
      if dataAddressLegal opd then .next { s with ds := Memory.write s.ds (sint opd).toNat v }
      else .next (s.raiseFatal .addressOutOfRange opd) := by
  unfold cellFromValue
  cases h : dataAddressLegal opd
  · simp [dataAddress_illegal h]
  · obtain ⟨a, ha, hv, hlt⟩ := dataAddress_legal h
    simp only [ha, dmWrite_eq, hv, if_pos (hv ▸ hlt), if_true]

end Sys2Proof.Laws
end

