-- ==== Sys2Proof/Laws/Exec.lean ====
section
/-! SUPPORT. What an execute phase can answer: always a next state, and which fields can differ in it. -/

namespace Sys2Proof.Laws

open Sys2Proof.Machine

/-- IN with a value presented takes it (42_io.md R160). -/
theorem execIn_cons {s : State} {v : BitVec s.width} {rest : List (BitVec s.width)} (h : s.input = v :: rest) :
    execIn s = .next { s with acc := v, input := rest } := by
  simp only [execIn, State.inTake, h]

/-- IN with no value presented turns the wait bit on and does nothing else (42_io.md R162). -/
theorem execIn_nil {s : State} (h : s.input = []) : execIn s = .next s.setInWait := by
  simp only [execIn, State.inTake, h]

theorem accIsZero_iff (s : State) : s.accIsZero = true ↔ s.acc = 0 := by simp [State.accIsZero]

/-- The four data instructions. -/
def IsData : Instr → Prop
  | .load _ | .add _ | .store _ | .sub _ => True
  | .in_ _ | .out _ | .end_ _ | .jmp _ | .skipz _ => False

/-- Everything an execute phase can answer, one case per effect (40_cycle.md R105, R106): a data instruction with
an illegal address is fatal, LOAD, ADD and SUB write `ACC`, STORE writes one cell, IN takes a value or waits, OUT
emits `ACC`, END halts, JMP writes `PC`, SKIPZ advances `PC` or does nothing. -/
theorem exec_cases {i : Instr} {s : State} {o : Host.Outcome State Fault Refusal} (h : exec i s = o) :
    (IsData i ∧ dataAddressLegal i.operand = false ∧ o = .next (s.raiseFatal .addressOutOfRange i.operand)) ∨
    (∃ opd, dataAddressLegal opd = true ∧
      ((i = .load opd ∧ o = .next (s.setAcc (s.cell (sint opd).toNat))) ∨
       (i = .add opd ∧ o = .next (s.setAcc (s.acc + s.cell (sint opd).toNat))) ∨
       (i = .sub opd ∧ o = .next (s.setAcc (s.acc - s.cell (sint opd).toNat))) ∨
       (i = .store opd ∧ o = .next { s with ds := Memory.write s.ds (sint opd).toNat s.acc }))) ∨
    (∃ opd, i = .in_ opd ∧
      ((∃ v rest, s.input = v :: rest ∧ o = .next { s with acc := v, input := rest }) ∨
       (s.input = [] ∧ o = .next s.setInWait))) ∨
    (∃ opd, i = .out opd ∧ o = .next (s.outEmit s.acc)) ∨
    (∃ opd, i = .end_ opd ∧ o = .next s.signalHalt) ∨
    (∃ opd, i = .jmp opd ∧ o = .next (s.setPc opd)) ∨
    (∃ opd, i = .skipz opd ∧ ((s.acc = 0 ∧ o = .next s.advancePc) ∨ (s.acc ≠ 0 ∧ o = .next s))) := by
  subst h
  cases i with
  | load opd =>
    simp only [exec, execLoad, accFromCell_eq]
    cases h : dataAddressLegal opd
    · exact .inl ⟨trivial, h, by simp [Instr.operand]⟩
    · exact .inr (.inl ⟨opd, h, .inl ⟨rfl, by simp⟩⟩)
  | add opd =>
    simp only [exec, execAdd, accFromCell_eq]
    cases h : dataAddressLegal opd
    · exact .inl ⟨trivial, h, by simp [Instr.operand]⟩
    · exact .inr (.inl ⟨opd, h, .inr (.inl ⟨rfl, by simp⟩)⟩)
  | store opd =>
    simp only [exec, execStore, cellFromValue_eq]
    cases h : dataAddressLegal opd
    · exact .inl ⟨trivial, h, by simp [Instr.operand]⟩
    · exact .inr (.inl ⟨opd, h, .inr (.inr (.inr ⟨rfl, by simp⟩))⟩)
  | sub opd =>
    simp only [exec, execSub, accFromCell_eq]
    cases h : dataAddressLegal opd
    · exact .inl ⟨trivial, h, by simp [Instr.operand]⟩
    · exact .inr (.inl ⟨opd, h, .inr (.inr (.inl ⟨rfl, by simp⟩))⟩)
  | in_ opd =>
    refine .inr (.inr (.inl ⟨opd, rfl, ?_⟩))
    cases h : s.input with
    | nil => exact .inr ⟨rfl, execIn_nil h⟩
    | cons v rest => exact .inl ⟨v, rest, rfl, execIn_cons h⟩
  | out opd => exact .inr (.inr (.inr (.inl ⟨opd, rfl, rfl⟩)))
  | end_ opd => exact .inr (.inr (.inr (.inr (.inl ⟨opd, rfl, rfl⟩))))
  | jmp opd => exact .inr (.inr (.inr (.inr (.inr (.inl ⟨opd, rfl, rfl⟩)))))
  | skipz opd =>
    refine .inr (.inr (.inr (.inr (.inr (.inr ⟨opd, rfl, ?_⟩)))))
    by_cases h : s.acc = 0
    · exact .inl ⟨h, by simp [exec, execSkipz, (accIsZero_iff s).2 h]⟩
    · refine .inr ⟨h, ?_⟩
      have h' : s.accIsZero = false := Bool.eq_false_iff.2 (mt (accIsZero_iff s).1 h)
      simp [exec, execSkipz, h']

end Sys2Proof.Laws
end

