-- ==== Sys2Proof/Laws/PerInstr.lean ====
section
/-! SUPPORT. Facts about every instruction as syntax, one lemma per constructor (LAWS.json). -/

namespace Sys2Proof.Laws

/-- The two fields of an encoded instruction are its opcode and its operand (30_encoding.md R80). -/
def EncodeFields.Statement (i : Instr) : Prop :=
  opcField (encode i) = i.opcode ∧ opdField (encode i) = i.operand

/-- A joined word splits into the fields it was joined from (R80). -/
theorem opcField_joinFields (opc opd : Word32) : opcField (joinFields opc opd) = opc := by
  simp only [opcField, joinFields]
  exact BitVec.extractLsb'_append_eq_left

theorem opdField_joinFields (opc opd : Word32) : opdField (joinFields opc opd) = opd := by
  simp only [opdField, joinFields]
  exact BitVec.extractLsb'_append_eq_right

/-- The whole word is its two fields, joined (R80). -/
theorem joinFields_fields (w : InstrWord) : joinFields (opcField w) (opdField w) = w := by
  simp only [joinFields, opcField, opdField]
  exact BitVec.extractLsb'_append_extractLsb' (w := 32) (len := 32) (x := w)

theorem EncodeFields.of (i : Instr) : EncodeFields.Statement i :=
  ⟨opcField_joinFields _ _, opdField_joinFields _ _⟩

theorem EncodeFields.load (opd : Word32) : EncodeFields.Statement (.load opd) := EncodeFields.of _
theorem EncodeFields.add (opd : Word32) : EncodeFields.Statement (.add opd) := EncodeFields.of _
theorem EncodeFields.store (opd : Word32) : EncodeFields.Statement (.store opd) := EncodeFields.of _
theorem EncodeFields.sub (opd : Word32) : EncodeFields.Statement (.sub opd) := EncodeFields.of _
theorem EncodeFields.in_ (opd : Word32) : EncodeFields.Statement (.in_ opd) := EncodeFields.of _
theorem EncodeFields.out (opd : Word32) : EncodeFields.Statement (.out opd) := EncodeFields.of _
theorem EncodeFields.end_ (opd : Word32) : EncodeFields.Statement (.end_ opd) := EncodeFields.of _
theorem EncodeFields.jmp (opd : Word32) : EncodeFields.Statement (.jmp opd) := EncodeFields.of _
theorem EncodeFields.skipz (opd : Word32) : EncodeFields.Statement (.skipz opd) := EncodeFields.of _

end Sys2Proof.Laws
end

