-- ==== Sys2Proof/Laws/Step.lean ====
section
/-! SUPPORT. What one step can do, said once (40_cycle.md R107, R108). -/

namespace Sys2Proof.Laws

open Sys2Proof.Machine

/-- The wait bit is what tells `Wait` from the other outcomes (00_scope.md R13). -/
theorem signalOf_eq_wait_iff (t : State) : signalOf t = .Wait ↔ t.inWait = true := by
  unfold signalOf
  cases t.inWait <;> cases t.run <;> simp

/-- An outcome that waits is taken back, but for the wait bit (40_cycle.md R108). -/
theorem commit_of_wait (s : State) {t : State} (h : t.inWait = true) : commit s (.next t) = .next s.setInWait := by
  simp only [commit, h, if_true]

/-- Any other outcome is kept (40_cycle.md R108). -/
theorem commit_of_go (s : State) {t : State} (h : t.inWait = false) : commit s (.next t) = .next t := by
  simp only [commit, h, Bool.false_eq_true, if_false]

/-- Outside RUNNING a step changes nothing (40_cycle.md R100). -/
theorem step_of_not_running {s : State} (h : s.run ≠ .running) : step s = .next s := by
  unfold step stepLoop
  cases hr : s.run <;> first | rfl | exact absurd hr h

/-- A fetch outside the loaded range (40_cycle.md R101). -/
theorem step_fetch_fails {s : State} (hr : s.run = .running) (hf : s.iFetch s.pc = none) :
    step s = .next (s.latchAddress.raiseFatal .invalidAddress s.pc) := by
  simp only [step, stepLoop, hr, stepRunning, hf]

/-- A word that decodes to no instruction (40_cycle.md R104). -/
theorem step_decode_fails {s : State} {w : InstrWord} {opc : Word32} (hr : s.run = .running)
    (hf : s.iFetch s.pc = some w) (hd : decode w = .error (.unknownOpcode opc)) :
    step s = .next ((s.latchAddress.latchWord w).raiseFatal .unknownOpcode opc) := by
  simp only [step, stepLoop, hr, stepRunning, hf, decodeAndExecute, hd]

/-- A word that decodes: the instruction executes and its outcome is committed (40_cycle.md R105, R108). -/
theorem step_executes {s : State} {w : InstrWord} {i : Instr} (hr : s.run = .running)
    (hf : s.iFetch s.pc = some w) (hd : decode w = .ok i) :
    step s = commit s (exec i (s.fetched w i)) := by
  simp only [step, stepLoop, hr, stepRunning, hf, decodeAndExecute, hd]

/-- Every way a step reaches its next state: a frozen final state, a failed fetch, an unknown opcode, or an
instruction executed and committed. -/
theorem step_cases {s t : State} (h : step s = .next t) :
    (s.run ≠ .running ∧ t = s) ∨
    (s.run = .running ∧ s.iFetch s.pc = none ∧ t = s.latchAddress.raiseFatal .invalidAddress s.pc) ∨
    (s.run = .running ∧ ∃ w opc, s.iFetch s.pc = some w ∧ decode w = .error (.unknownOpcode opc) ∧
      t = (s.latchAddress.latchWord w).raiseFatal .unknownOpcode opc) ∨
    (s.run = .running ∧ ∃ w i u, s.iFetch s.pc = some w ∧ decode w = .ok i ∧ exec i (s.fetched w i) = .next u ∧
      ((u.inWait = true ∧ t = s.setInWait) ∨ (u.inWait = false ∧ t = u))) := by
  by_cases hr : s.run = .running
  · right
    cases hf : s.iFetch s.pc with
    | none =>
      rw [step_fetch_fails hr hf] at h
      exact .inl ⟨hr, rfl, (Host.Outcome.next.inj h).symm⟩
    | some w =>
      right
      cases hd : decode w with
      | error e =>
        obtain ⟨opc⟩ := e
        rw [step_decode_fails hr hf hd] at h
        exact .inl ⟨hr, w, opc, rfl, hd, (Host.Outcome.next.inj h).symm⟩
      | ok i =>
        rw [step_executes hr hf hd] at h
        refine .inr ⟨hr, w, i, ?_⟩
        cases he : exec i (s.fetched w i) with
        | fault e => rw [he] at h; simp [commit] at h
        | refused r => rw [he] at h; simp [commit] at h
        | next u =>
          rw [he] at h
          refine ⟨u, rfl, hd, rfl, ?_⟩
          cases hw : u.inWait
          · rw [commit_of_go s hw] at h
            exact .inr ⟨rfl, (Host.Outcome.next.inj h).symm⟩
          · rw [commit_of_wait s hw] at h
            exact .inl ⟨rfl, (Host.Outcome.next.inj h).symm⟩
  · rw [step_of_not_running hr] at h
    exact .inl ⟨hr, (Host.Outcome.next.inj h).symm⟩

end Sys2Proof.Laws
end

