-- ==== Sys2Proof/Tests/Slice0.lean ====
section
/-! SUPPORT. The model's own tests. Expected values are the spec's: 95_test_vectors.md (V-…, P…), 30_encoding.md R82
and R90, 00_scope.md R8; the source of each stands in its comment. The witnesses of the statements are in
Tests/Witnesses.lean. -/

namespace Sys2Proof.Tests

open Sys2Proof.Machine

/-! ## Well-formedness: an ill-formed term for each check -/

/-- A legal launch at the bounds of R8: W = 1, N = ICAP, IBASE + ICAP = 2^31. -/
def edgeLaunch : Launch where
  width := 1
  ibase := 0x7FFFFFFE
  icap := 2
  imem := [0, 0]
  acc0 := 1
  input := []

theorem test_launch_at_bounds_accepted : edgeLaunch.wellFormed = true := by decide
theorem test_launch_width_zero_refused :
    Launch.wellFormed { width := 0, ibase := 0, icap := 0, imem := [], acc0 := 0, input := [] } = false := by decide
theorem test_launch_over_capacity_refused :
    Launch.wellFormed { width := 32, ibase := 0, icap := 1, imem := [0, 0], acc0 := 0, input := [] } = false := by decide
theorem test_launch_past_2_31_refused :
    Launch.wellFormed { width := 32, ibase := 0x7FFFFFFF, icap := 2, imem := [], acc0 := 0, input := [] } = false := by
  decide
theorem test_number_opcode_refused : NumberLine.wellFormed { opcode := 2147483648, operand := 0 } = false := by decide
theorem test_number_operand_refused : NumberLine.wellFormed { opcode := 1, operand := -2147483649 } = false := by decide
theorem test_asm_missing_operand_refused : AsmLine.wellFormed { mnemonic := .LOAD, operand := none } = false := by decide
theorem test_asm_extra_operand_refused : AsmLine.wellFormed { mnemonic := .OUT, operand := some 0 } = false := by decide
theorem test_asm_large_operand_refused :
    AsmLine.wellFormed { mnemonic := .JMP, operand := some 2147483648 } = false := by decide
/-- R85: an instruction with an out-of-range data address is legal to decode. -/
theorem test_instr_illegal_address_accepted : (Instr.load 10).wellFormed = true := by decide

/-! ## Decoding: the words of R82 and R90, and illegal words of V-F3 to V-F7 and R83 -/

theorem test_decode_load_minus_1 : decode 0x00000001FFFFFFFF#64 = .ok (.load 0xFFFFFFFF) := by decide
theorem test_decode_add : decode 0x0000000200000001#64 = .ok (.add 1) := by decide
theorem test_decode_store_0 : decode 0x0000000300000000#64 = .ok (.store 0) := by decide
theorem test_decode_sub : decode 0x0000000400000064#64 = .ok (.sub 100) := by decide
theorem test_decode_in_any_operand : decode 0x0000000512345678#64 = .ok (.in_ 0x12345678) := by decide
theorem test_decode_out : decode 0x0000000600000000#64 = .ok (.out 0) := by decide
theorem test_decode_end : decode 0x0000000700000000#64 = .ok (.end_ 0) := by decide
theorem test_decode_jmp_8 : decode 0x0000000800000008#64 = .ok (.jmp 8) := by decide
theorem test_decode_skipz : decode 0x0000000900000000#64 = .ok (.skipz 0) := by decide
theorem test_decode_0_illegal : decode 0x0000000000000000#64 = .error (.unknownOpcode 0) := by decide
theorem test_decode_10_illegal : decode 0x0000000A00000000#64 = .error (.unknownOpcode 10) := by decide
theorem test_decode_high_bit_illegal : decode 0x8000000100000000#64 = .error (.unknownOpcode 0x80000001) := by decide
theorem test_decode_middle_bit_illegal : decode 0x0001000100000000#64 = .error (.unknownOpcode 0x00010001) := by decide
theorem test_table_word : decodeTableWord 64 0x0000000800000008 = some (.jmp 8) := by decide
theorem test_table_word_illegal : decodeTableWord 64 0x0000006300000000 = none := by decide
/-- R90: `LOAD -1`, `OUT`, and the number pair `99 0`. -/
theorem test_asm_load_minus_1 :
    AsmLine.word { mnemonic := .LOAD, operand := some (-1) } = some 0x00000001FFFFFFFF := by decide
theorem test_asm_out : AsmLine.word { mnemonic := .OUT, operand := none } = some 0x0000000600000000 := by decide
theorem test_number_99_0 : NumberLine.word { opcode := 99, operand := 0 } = some 0x0000006300000000 := by decide
theorem test_asm_text : AsmLine.text { mnemonic := .STORE, operand := some 0 } = "STORE 0" := by decide

/-! ## One step: the vectors of 95_test_vectors.md -/

/-- A launch at IBASE = 0 with W = 32, as the vectors use it. -/
def launch32 (words : List InstrWord) (acc0 : BitVec 32) (input : List (BitVec 32)) : Launch where
  width := 32
  ibase := 0
  icap := 64
  imem := words
  acc0 := acc0
  input := input

/-- The start state of a program with W = 32. -/
def start32 (words : List InstrWord) (acc0 : BitVec 32) (input : List (BitVec 32)) : State :=
  State.start (launch32 words acc0 input)

/-- The boundary state of one word at address 0 with a given Accumulator and Data Store, W = 32. -/
def one32 (word : InstrWord) (acc : BitVec 32) (ds : Memory 32) : State where
  width := 32
  icap := 64
  ldBase := 0
  imem := [word]
  acc := acc
  pc := 0
  ds := ds
  run := .running
  faultCause := .none
  faultInfo := 0
  mar := 0
  ir := 0
  dir := .load 0
  inWait := false
  input := []
  output := []

/-- The same with W = 8 (V-M18, V-M19). -/
def one8 (word : InstrWord) (acc : BitVec 8) (ds : Memory 8) : State where
  width := 8
  icap := 64
  ldBase := 0
  imem := [word]
  acc := acc
  pc := 0
  ds := ds
  run := .running
  faultCause := .none
  faultInfo := 0
  mar := 0
  ir := 0
  dir := .load 0
  inWait := false
  input := []
  output := []

/-- Whether an outcome is a next state with a property. -/
def after (o : Host.Outcome State Fault Refusal) (p : State → Bool) : Bool :=
  match o with
  | .next t => p t
  | .fault _ => false
  | .refused _ => false

/-- V-M1. -/
theorem test_load_copies : after (step (one32 0x0000000100000004 7 [(4, 0xFFFFFFF6)])) (fun t =>
    decide (t.accNat = 0xFFFFFFF6 ∧ t.cellNat 4 = 0xFFFFFFF6 ∧ t.pc = 1 ∧ t.run = .running)) = true := by decide
/-- V-M4. -/
theorem test_load_negative_address : after (step (one32 0x00000001FFFFFFFF 7 [])) (fun t =>
    decide (t.accNat = 7 ∧ t.pc = 1 ∧ t.run = .errored ∧ t.faultCause = .addressOutOfRange ∧
      t.faultInfo = 0xFFFFFFFF)) = true := by decide
/-- V-M6. -/
theorem test_add_wraps : after (step (one32 0x0000000200000001 0x7FFFFFFF [(1, 1)])) (fun t =>
    decide (t.accNat = 0x80000000 ∧ t.run = .running)) = true := by decide
/-- V-M18. -/
theorem test_add_wraps_w8 : after (step (one8 0x0000000200000000 0x7F [(0, 1)])) (fun t =>
    decide (t.accNat = 0x80)) = true := by decide
/-- V-M11. -/
theorem test_store_last_cell : after (step (one32 0x0000000300000009 0x80000000 [])) (fun t =>
    decide (t.cellNat 9 = 0x80000000 ∧ t.cellNat 8 = 0 ∧ t.accNat = 0x80000000 ∧ t.pc = 1)) = true := by decide
/-- V-M12. -/
theorem test_store_negative_address : after (step (one32 0x00000003FFFFFFFB 3 [])) (fun t =>
    decide (t.run = .errored ∧ t.faultInfo = 0xFFFFFFFB ∧ t.ds.isEmpty = true)) = true := by decide
/-- V-M16: ACC minus the cell, never the reverse. -/
theorem test_sub_order : after (step (one32 0x0000000400000001 5 [(1, 1)])) (fun t => decide (t.accNat = 4)) = true := by
  decide
/-- V-M19. -/
theorem test_sub_wraps_w8 : after (step (one8 0x0000000400000000 0 [(0, 1)])) (fun t => decide (t.accNat = 0xFF)) = true := by
  decide
/-- V-I1 and V-I4. -/
theorem test_in_takes : after (step (start32 [0x0000000512345678] 9 [42])) (fun t =>
    decide (t.accNat = 42 ∧ t.input.length = 0 ∧ t.pc = 1 ∧ t.inWait = false)) = true := by decide
/-- V-I2. -/
theorem test_in_waits : after (step (start32 [0x0000000500000000] 9 [])) (fun t =>
    decide (t.accNat = 9 ∧ t.pc = 0 ∧ t.run = .running ∧ t.inWait = true)) = true := by decide
/-- V-I6: the bit pattern is emitted. -/
theorem test_out_emits : after (step (one32 0x0000000600000000 0xFFFFFFFF [])) (fun t =>
    decide (t.output.map BitVec.toNat = [0xFFFFFFFF] ∧ t.accNat = 0xFFFFFFFF ∧ t.pc = 1)) = true := by decide
/-- V-C1. -/
theorem test_end_halts : after (step (one32 0x0000000700000000 3 [])) (fun t =>
    decide (t.run = .halted ∧ t.faultCause = .none ∧ t.pc = 1 ∧ t.accNat = 3)) = true := by decide
/-- V-C4: a negative target is written, and faults at the next fetch. -/
theorem test_jmp_negative : after (step (one32 0x00000008FFFFFFFF 0 [])) (fun t =>
    decide (t.pc = 0xFFFFFFFF ∧ t.run = .running) && after (step t) (fun u =>
      decide (u.pc = 0xFFFFFFFF ∧ u.faultCause = .invalidAddress ∧ u.faultInfo = 0xFFFFFFFF))) = true := by decide
/-- V-C6. -/
theorem test_skipz_skips : after (step (one32 0x0000000900000000 0 [])) (fun t => decide (t.pc = 2)) = true := by decide
/-- V-C8. -/
theorem test_skipz_negative_falls_through :
    after (step (one32 0x0000000900000000 0x80000000 [])) (fun t => decide (t.pc = 1)) = true := by decide
/-- R13: the four outcomes, as the next state of the execute phase shows them. -/
theorem test_signals :
    after (exec (.out 0) (one32 0 6 [])) (fun t => decide (signalOf t = .Continue)) = true ∧
    after (exec (.end_ 0) (one32 0 6 [])) (fun t => decide (signalOf t = .Halt)) = true ∧
    after (exec (.load 10) (one32 0 6 [])) (fun t => decide (signalOf t = .Fatal .addressOutOfRange 10)) = true ∧
    after (exec (.in_ 0) (one32 0 6 [])) (fun t => decide (signalOf t = .Wait)) = true := by decide
/-- V-F7: the operand of an unknown opcode is not checked. -/
theorem test_unknown_opcode : after (step (one32 0x000000630000000A 7 [])) (fun t =>
    decide (t.run = .errored ∧ t.faultCause = .unknownOpcode ∧ t.faultInfo = 0x63 ∧ t.pc = 1)) = true := by decide
/-- V-F1: the first step from reset, with nothing loaded. -/
theorem test_reset_empty_program : after (step State.reset) (fun t =>
    decide (t.run = .errored ∧ t.faultCause = .invalidAddress ∧ t.faultInfo = 0 ∧ t.pc = 0)) = true := by decide
/-- V-F10. -/
theorem test_start_values : decide ((State.start { edgeLaunch with ibase := 7 }).pc = 7 ∧
    (State.start { edgeLaunch with ibase := 7 }).accNat = 1) = true := by decide
/-- V-F8. -/
theorem test_halted_is_frozen : step { start32 [] 0 [] with run := .halted } = .next { start32 [] 0 [] with run := .halted } :=
  rfl
/-- 93_implementation_defined.md: more than `ICAP` words are refused. -/
theorem test_load_over_capacity_refused :
    ({ State.start edgeLaunch with run := .halted }).loadStore 0 [0, 0, 0] = .refused .loadExceedsCapacity := rfl
/-- 00_scope.md R8: `IBASE + ICAP <= 2^31`. -/
theorem test_load_past_2_31_refused :
    ({ State.start edgeLaunch with run := .halted }).loadStore 0x7FFFFFFF [0] = .refused .loadBaseTooHigh := rfl
/-- A word placed at `PC` is the instruction the next step runs. -/
theorem test_with_fetch_word : after (step (State.reset.withFetchWord 64 0x0000000800000008)) (fun t =>
    decide (t.pc = 8 ∧ t.run = .running ∧ t.dir = .jmp 8)) = true := by decide
theorem test_with_fetch_word_in_range :
    after (step ((start32 [0x0000000700000000, 0] 0 []).withFetchWord 64 0x0000000900000000)) (fun t =>
      decide (t.pc = 2 ∧ t.run = .running ∧ t.imem = [0x0000000900000000, 0])) = true := by decide

/-! ## The ports and the host's side -/

/-- R56: STORE drives the write enable, its address and ACC. -/
theorem test_port_store : dmPort (.store 9) (one32 0 5 []) = { re := false, we := true, addr := some 9, wdata := some 5 } := by
  decide
/-- R55: the port faults when it is driven with 10. -/
theorem test_port_fault : (match (one32 0 5 []).dmRead 10 with | .ok _ => false | .error e => decide (e = .dataPortAddress 10)) = true := by
  decide
/-- Writing 0 removes the entry. -/
theorem test_write_zero : Memory.write ([(1, 5), (4, 2)] : Memory 32) 4 0 = [(1, 5)] := by decide
theorem test_write_sorted : Memory.write ([(1, 5), (4, 2)] : Memory 32) 3 7 = [(1, 5), (3, 7), (4, 2)] := by decide
/-- R222: the observation at the boundary before P2's first step. -/
theorem test_observe : (start32 [0x0000000500000000] 9 [42]).observe =
    some { pc := 0, acc := 9, ds := [0, 0, 0, 0, 0, 0, 0, 0, 0, 0] } := by decide
/-- R162: a waiting IN completes once the host presents a value. -/
theorem test_present : after (step ({ start32 [0x0000000500000000] 9 [] with inWait := true }.present 42)) (fun t =>
    decide (t.accNat = 42 ∧ t.pc = 1 ∧ t.inWait = false)) = true := by decide

end Sys2Proof.Tests
end

