-- ==== Sys2Proof/Tests/Witnesses.lean ====
section
/-! SUPPORT. For every statement with hypotheses, a concrete state and operands that meet all of them together, and
for every clause a value at the boundary of its range. -/

namespace Sys2Proof.Tests

open Sys2Proof.Machine

/-- A next state exists and meets a decidable property. -/
theorem next_of_after {o : Host.Outcome State Fault Refusal} {p : State → Bool} (h : after o p = true) :
    ∃ t, o = .next t ∧ p t = true := by
  cases o with
  | next t => exact ⟨t, rfl, h⟩
  | fault e => cases h
  | refused r => cases h

/-! ## Sample states -/

/-- A STORE to cell 9 at address 0, ACC = 5. -/
def atStore : State := one32 0x0000000300000009 5 []
/-- A LOAD of cell 9 at address 0. -/
def atLoad : State := one32 0x0000000100000009 7 [(9, 5)]
/-- A LOAD of address 10 at address 0. -/
def atBadLoad : State := one32 0x000000010000000A 7 []
/-- An IN at address 0, nothing presented. -/
def atIn : State := start32 [0x0000000500000000] 9 []
/-- An IN at address 0, 42 presented. -/
def atInReady : State := start32 [0x0000000500000000] 9 [42]
/-- An OUT at address 0. -/
def atOut : State := one32 0x0000000600000000 6 []
/-- An END at address 0. -/
def atEnd : State := one32 0x0000000700000000 6 []
/-- A JMP to 1, the first address after the program, at address 0. -/
def atBadJmp : State := one32 0x0000000800000001 6 []
/-- A SKIPZ at address 0, the last of the program. -/
def atSkipz : State := one32 0x0000000900000000 0 []
/-- A SKIPZ at address 0 of a program of two words. -/
def atSkipzBeforeLast : State := start32 [0x0000000900000000, 0] 0 []
/-- An unknown opcode at address 0. -/
def atUnknown : State := one32 0x0000000A00000000 6 []
/-- PC at the first address after the program. -/
def pastEnd : State := { atEnd with pc := 1 }
/-- PC below IBASE. -/
def belowBase : State := { atEnd with ldBase := 1 }
/-- PC at the pattern of -1. -/
def atMinusOne : State := { atEnd with pc := 0xFFFFFFFF }

theorem about_store : atStore.about (.store 9) := ⟨0x0000000300000009, by decide, by decide⟩
theorem about_in : atIn.about (.in_ 0) := ⟨0x0000000500000000, by decide, by decide⟩
theorem about_in_ready : atInReady.about (.in_ 0) := ⟨0x0000000500000000, by decide, by decide⟩
theorem about_out : atOut.about (.out 0) := ⟨0x0000000600000000, by decide, by decide⟩
theorem about_end : atEnd.about (.end_ 0) := ⟨0x0000000700000000, by decide, by decide⟩
theorem about_jmp : atBadJmp.about (.jmp 1) := ⟨0x0000000800000001, by decide, by decide⟩
theorem about_skipz : atSkipz.about (.skipz 0) := ⟨0x0000000900000000, by decide, by decide⟩

/-- The sample states meet the invariant: parameters, Data Store, record, wait bit. -/
theorem atStore_inv : atStore.Inv :=
  ⟨⟨by decide, by decide, by decide⟩, by decide, by simp [State.recordOk, atStore, one32],
    by simp [State.waitOk, atStore, one32]⟩

/-- The end of a run on a store of capacity 2. -/
def halted2 : State := { State.start edgeLaunch with run := .halted }
theorem halted2_inv : halted2.Inv :=
  ⟨⟨by decide, by decide, by decide⟩, by decide, by simp [State.recordOk, halted2, State.start],
    by simp [State.waitOk, halted2, State.start]⟩

/-! ## Witnesses, in the order of the statements -/

theorem witness_DecoderFollowsOpcodeTable :
    sint (1 : Word32) = 1 ∧ sint (2 : Word32) = 2 ∧ sint (3 : Word32) = 3 ∧ sint (4 : Word32) = 4 ∧
    sint (5 : Word32) = 5 ∧ sint (6 : Word32) = 6 ∧ sint (7 : Word32) = 7 ∧ sint (8 : Word32) = 8 ∧
    sint (9 : Word32) = 9 ∧ ¬ (1 ≤ sint (0 : Word32) ∧ sint (0 : Word32) ≤ 9) ∧
    ¬ (1 ≤ sint (10 : Word32) ∧ sint (10 : Word32) ≤ 9) ∧
    ¬ (1 ≤ sint (0x80000001 : Word32) ∧ sint (0x80000001 : Word32) ≤ 9) := by decide
theorem witness_DecodeOfEncodeIsIdentity : (Instr.jmp 0xFFFFFFFF).wellFormed = true := by decide
theorem witness_EncodeOfDecodeIsIdentity : decode 0x0000000500000007#64 = .ok (.in_ 7) := by decide
theorem witness_AssembledLineDecodes :
    AsmLine.wellFormed { mnemonic := .LOAD, operand := some (-2147483648) } = true ∧
    AsmLine.wellFormed { mnemonic := .JMP, operand := some 2147483647 } = true ∧
    AsmLine.wellFormed { mnemonic := .SKIPZ, operand := none } = true := by decide
theorem witness_NumberPairWordKeepsBothIntegers :
    NumberLine.wellFormed { opcode := 9, operand := -2147483648 } = true ∧
    NumberLine.wellFormed { opcode := 10, operand := 2147483647 } = true := by decide
theorem witness_StepRunsDecodedInstruction :
    atStore.run = .running ∧ atStore.iFetch atStore.pc = some 0x0000000300000009 ∧
    decode 0x0000000300000009#64 = .ok (.store 9) ∧ (Instr.store 9).wellFormed = true := by decide
/-- The clause that waits is met by an IN with nothing presented. -/
theorem witness_StepRunsDecodedInstruction_wait :
    atIn.run = .running ∧ atIn.iFetch atIn.pc = some 0x0000000500000000 ∧
    after (exec (.in_ 0) (atIn.fetched 0x0000000500000000 (.in_ 0))) (fun t => t.inWait) = true := by decide
theorem witness_FetchOutsideLoadedRangeEndsRun :
    (pastEnd.run = .running ∧
      ¬ (uint pastEnd.ldBase ≤ uint pastEnd.pc ∧ uint pastEnd.pc < uint pastEnd.ldBase + uint pastEnd.ldCount)) ∧
    (belowBase.run = .running ∧
      ¬ (uint belowBase.ldBase ≤ uint belowBase.pc ∧ uint belowBase.pc < uint belowBase.ldBase + uint belowBase.ldCount)) := by
  decide
theorem witness_UnknownOpcodeEndsRun :
    atUnknown.run = .running ∧ atUnknown.iFetch atUnknown.pc = some (10#32 ++ 0#32) ∧
    ¬ (1 ≤ sint (10 : Word32) ∧ sint (10 : Word32) ≤ 9) := by decide
theorem witness_ProgramCounterAfterStep :
    (pastEnd.run = .running ∧ pastEnd.iFetch pastEnd.pc = none) ∧
    (atUnknown.run = .running ∧ atUnknown.iFetch atUnknown.pc = some 0x0000000A00000000 ∧
      decode 0x0000000A00000000#64 = .error (.unknownOpcode 10)) ∧
    (atSkipz.run = .running ∧ atSkipz.iFetch atSkipz.pc = some 0x0000000900000000 ∧
      decode 0x0000000900000000#64 = .ok (.skipz 0)) := by decide
theorem witness_ProgramCounterNeverWraps :
    atSkipz.paramsOk ∧ atSkipz.run = .running ∧ atSkipz.iFetch atSkipz.pc = some 0x0000000900000000 ∧
    (∀ opd, decode 0x0000000900000000#64 ≠ .ok (.jmp opd)) ∧ ∃ t, step atSkipz = .next t := by
  refine ⟨⟨by decide, by decide, by decide⟩, by decide, by decide, fun opd h => ?_, _, rfl⟩
  rw [test_decode_skipz] at h
  cases h
theorem witness_LoadedProgramIsFetchedFromBase :
    edgeLaunch.wellFormed = true ∧ 1 < edgeLaunch.imem.length ∧
    ¬ (uint edgeLaunch.ibase ≤ uint (0x80000000 : Word32) ∧
      uint (0x80000000 : Word32) < uint edgeLaunch.ibase + edgeLaunch.imem.length) := by decide
/-- The bounds of the data-address clauses of LOAD, ADD, STORE and SUB: 0, 9, 10 and -1. -/
theorem witness_data_address_clauses :
    (0 ≤ sint (0 : Word32) ∧ sint (0 : Word32) ≤ 9) ∧ (0 ≤ sint (9 : Word32) ∧ sint (9 : Word32) ≤ 9) ∧
    ¬ (0 ≤ sint (10 : Word32) ∧ sint (10 : Word32) ≤ 9) ∧
    ¬ (0 ≤ sint (0xFFFFFFFF : Word32) ∧ sint (0xFFFFFFFF : Word32) ≤ 9) := by decide
theorem witness_LoadCopiesCellToAccumulator : 0 ≤ sint (9 : Word32) ∧ sint (9 : Word32) ≤ 9 := by decide
theorem witness_AddAddsCellToAccumulator : 0 ≤ sint (0 : Word32) ∧ sint (0 : Word32) ≤ 9 := by decide
theorem witness_StoreWritesOneCell :
    (0 ≤ sint (9 : Word32) ∧ sint (9 : Word32) ≤ 9) ∧
    ((∀ opd, Instr.out 0 ≠ .store opd) ∧ ∃ t, exec (.out 0) atOut = .next t) :=
  ⟨by decide, fun _ => nofun, _, rfl⟩
theorem witness_SubSubtractsCellFromAccumulator : ¬ (0 ≤ sint (10 : Word32) ∧ sint (10 : Word32) ≤ 9) := by decide
theorem witness_DataAddressIsCheckedFirst :
    (atBadLoad.run = .running ∧ atBadLoad.iFetch atBadLoad.pc = some 0x000000010000000A ∧
      decode 0x000000010000000A#64 = .ok (.load 10) ∧ ¬ (0 ≤ sint (10 : Word32) ∧ sint (10 : Word32) ≤ 9)) ∧
    (atStore.run = .running ∧ atStore.iFetch atStore.pc = some 0x0000000300000009 ∧
      decode 0x0000000300000009#64 = .ok (.store 9) ∧ 0 ≤ sint (9 : Word32) ∧ sint (9 : Word32) ≤ 9) := by decide
theorem witness_CanonicalMemoryIsKeptAndUnique :
    Memory.wf ([(0, 1), (9, 5)] : Memory 32) = true ∧ 9 < Config.dsSize := by decide
theorem witness_StoreThenLoadThenOutRoundTrip : 0 ≤ sint (9 : Word32) ∧ sint (9 : Word32) ≤ 9 := by decide
theorem witness_OnlyStoreChangesACell : ∃ t, step atStore = .next t ∧ t.cellNat 9 ≠ atStore.cellNat 9 :=
  (next_of_after (p := fun t => decide (t.cellNat 9 ≠ atStore.cellNat 9)) (by decide)).imp
    fun _ h => ⟨h.1, of_decide_eq_true h.2⟩
theorem witness_CellKeepsValueUntilStored :
    ∃ t, Sys2Proof.core.run 1 atStore = .next t ∧ t.cellNat 9 ≠ atStore.cellNat 9 :=
  ⟨_, rfl, by decide⟩
theorem witness_OnlyFourInstructionsWriteAccumulator : ∃ t, step atLoad = .next t ∧ t.accNat ≠ atLoad.accNat :=
  (next_of_after (p := fun t => decide (t.accNat ≠ atLoad.accNat)) (by decide)).imp
    fun _ h => ⟨h.1, of_decide_eq_true h.2⟩
theorem witness_DataPortShowsTheAccess :
    (∃ t, exec (.store 9) atStore = .next t ∧ (dmPort (.store 9) atStore).we = true) ∧
    (∃ t, exec (.load 9) atLoad = .next t ∧ (dmPort (.load 9) atLoad).re = true) ∧
    (∃ t, exec (.load 10) atBadLoad = .next t ∧ (dmPort (.load 10) atBadLoad).we = false) :=
  ⟨⟨_, rfl, by decide⟩, ⟨_, rfl, by decide⟩, ⟨_, rfl, by decide⟩⟩
/-- The operands at the bounds of the address check. -/
theorem witness_DataPortShowsTheAccess_bounds :
    (0 ≤ sint (0 : Word32) ∧ sint (0 : Word32) ≤ 9) ∧ (0 ≤ sint (9 : Word32) ∧ sint (9 : Word32) ≤ 9) ∧
    ¬ (0 ≤ sint (10 : Word32) ∧ sint (10 : Word32) ≤ 9) ∧
    ¬ (0 ≤ sint (0xFFFFFFFF : Word32) ∧ sint (0xFFFFFFFF : Word32) ≤ 9) := by decide
theorem witness_InstructionStoreIsNeverWritten : ∃ t, step atStore = .next t := ⟨_, rfl⟩
theorem witness_ParametersNeverChange : ∃ t, step atLoad = .next t := ⟨_, rfl⟩
theorem witness_InTakesHeadOfInput : atInReady.input = 42 :: [] ∧ atIn.input = [] := ⟨rfl, rfl⟩
theorem witness_InWithoutInputWaits : atIn.run = .running ∧ atIn.about (.in_ 0) ∧ atIn.input = [] := ⟨rfl, about_in, rfl⟩
theorem witness_StuckRunNeverCommits : atIn.stuck := ⟨rfl, ⟨0, about_in⟩, rfl⟩
theorem witness_StreamsMoveOnlyByInAndOut :
    (∃ t, step atOut = .next t ∧ t.output.map BitVec.toNat ≠ atOut.output.map BitVec.toNat) ∧
    (∃ t, step atInReady = .next t ∧ t.input.map BitVec.toNat ≠ atInReady.input.map BitVec.toNat) :=
  ⟨⟨_, rfl, by decide⟩, ⟨_, rfl, by decide⟩⟩
theorem witness_InputArrivalChangesNoCommittedStep : ∃ t, step atInReady = .next t ∧ t.inWait = false := ⟨_, rfl, rfl⟩
theorem witness_EndHaltsAndOnlyEndHalts : ∃ t, step atEnd = .next t ∧ t.run = .halted ∧ atEnd.run ≠ .halted :=
  ⟨_, rfl, rfl, by decide⟩
theorem witness_JmpSetsProgramCounter : atBadJmp.run = .running ∧ atBadJmp.about (.jmp 1) := ⟨rfl, about_jmp⟩
/-- The target is the first address after the program. -/
theorem witness_BadJumpTargetFaultsAtNextFetch :
    atBadJmp.run = .running ∧ atBadJmp.about (.jmp 1) ∧
    ¬ (uint atBadJmp.ldBase ≤ uint (1 : Word32) ∧ uint (1 : Word32) < uint atBadJmp.ldBase + uint atBadJmp.ldCount) :=
  ⟨rfl, about_jmp, by decide⟩
theorem witness_NegativeTargetIsNeverLoaded :
    atMinusOne.paramsOk ∧ atMinusOne.run = .running ∧ sint atMinusOne.pc < 0 :=
  ⟨⟨by decide, by decide, by decide⟩, rfl, by decide⟩
/-- ACC = 0, ACC = 1, and a SKIPZ to execute. -/
theorem witness_SkipzSkipsExactlyOnZero :
    atSkipz.acc = 0 ∧ (one32 0 1 []).acc ≠ 0 ∧ atSkipz.run = .running ∧ atSkipz.about (.skipz 0) :=
  ⟨rfl, by decide, rfl, about_skipz⟩
theorem witness_SkipzPastTheEndFaultsAtNextFetch :
    (atSkipz.paramsOk ∧ atSkipz.run = .running ∧ atSkipz.about (.skipz 0) ∧
      uint atSkipz.pc + 1 = uint atSkipz.ldBase + uint atSkipz.ldCount) ∧
    (atSkipzBeforeLast.paramsOk ∧ atSkipzBeforeLast.run = .running ∧ atSkipzBeforeLast.about (.skipz 0) ∧
      uint atSkipzBeforeLast.pc + 2 = uint atSkipzBeforeLast.ldBase + uint atSkipzBeforeLast.ldCount ∧
      atSkipzBeforeLast.acc = 0) :=
  ⟨⟨⟨by decide, by decide, by decide⟩, rfl, about_skipz, by decide⟩,
    ⟨by decide, by decide, by decide⟩, rfl,
    ⟨0x0000000900000000, by decide, by decide⟩, by decide, rfl⟩
theorem witness_FaultingStepHasNoEffectOfItsOwn :
    (∃ t, step atBadLoad = .next t ∧ t.run = .errored ∧ t.faultCause = .addressOutOfRange) ∧
    (∃ t, step atUnknown = .next t ∧ t.run = .errored ∧ t.faultCause = .unknownOpcode) ∧
    (∃ t, step pastEnd = .next t ∧ t.run = .errored ∧ t.faultCause = .invalidAddress) :=
  ⟨⟨_, rfl, rfl, rfl⟩, ⟨_, rfl, rfl, rfl⟩, ⟨_, rfl, rfl, rfl⟩⟩
/-- One state for each clause: a failed fetch, opcode 10, LOAD 10, and the two that do not fault, OUT and STORE 9. -/
theorem witness_ExactlyThreeFatalConditions :
    (pastEnd.run = .running ∧ pastEnd.inLoadedRange pastEnd.pc = false) ∧
    (atUnknown.run = .running ∧ atUnknown.iFetch atUnknown.pc = some (10#32 ++ 0#32)) ∧
    (atBadLoad.run = .running ∧ atBadLoad.iFetch atBadLoad.pc = some (1#32 ++ 10#32)) ∧
    (atOut.run = .running ∧ atOut.iFetch atOut.pc = some (6#32 ++ 0#32)) ∧
    (atStore.run = .running ∧ atStore.iFetch atStore.pc = some (3#32 ++ 9#32)) := by decide
theorem witness_FinalStateNeverChanges :
    State.final { atEnd with run := .halted } ∧ State.final { atEnd with run := .errored } :=
  ⟨.inl rfl, .inr rfl⟩
theorem witness_ResetLeavesTheStartState : State.inWait { atEnd with run := .halted } = false := rfl
theorem witness_ResetDuringWaitIsRefused : State.inWait { atIn with inWait := true } = true ∧ atIn.run = .running :=
  ⟨rfl, rfl⟩
theorem witness_StatusCodesAreTheSpecs :
    atEnd.runBits = atStore.runBits ∧ atEnd.faultCauseBits = atStore.faultCauseBits := by decide
theorem witness_InvariantHoldsAtReset : edgeLaunch.wellFormed = true := by decide
theorem witness_EveryStepKeepsInvariant : atStore.Inv ∧ ∃ t, step atStore = .next t := ⟨atStore_inv, _, rfl⟩
theorem witness_HostMovesKeepInvariant :
    (atStore.Inv ∧ ∃ t, atStore.applyReset 3 = .next t) ∧
    (halted2.Inv ∧ ∃ t, halted2.loadStore 0x7FFFFFFE [0, 0] = .next t) :=
  ⟨⟨atStore_inv, _, rfl⟩, halted2_inv, _, rfl⟩
theorem witness_EndOfRunRecordIsTruthful : atEnd.endTruthful ∧ ∃ t, step atEnd = .next t :=
  ⟨by simp [State.endTruthful, atEnd, one32], _, rfl⟩
theorem witness_WaitingBoundaryIsObservedOnce : atIn.stuck ∧ atIn.inWait = false :=
  ⟨witness_StuckRunNeverCommits, rfl⟩
/-- Exactly ICAP words at the highest base; one word too many; the lowest base that is too high. -/
theorem witness_LoadAfterARunReplacesTheProgram :
    halted2.final ∧ halted2.inWait = false ∧
    (([0, 0] : List InstrWord).length ≤ halted2.icap ∧ uint (0x7FFFFFFE : Word32) + halted2.icap ≤ 2 ^ 31) ∧
    halted2.icap < ([0, 0, 0] : List InstrWord).length ∧
    (([0, 0] : List InstrWord).length ≤ halted2.icap ∧ 2 ^ 31 < uint (0x7FFFFFFF : Word32) + halted2.icap) :=
  ⟨.inl rfl, by decide⟩
/-- A fetched word, a failed fetch, and a step that does not wait. -/
theorem witness_FetchPortShowsTheFetch :
    (atStore.run = .running ∧ (ifPort atStore).word = some 0x0000000300000009 ∧
      after (step atStore) (fun t => !t.inWait) = true) ∧
    (pastEnd.run = .running ∧ (ifPort pastEnd).word = none) := by decide

end Sys2Proof.Tests
end

/-! ## The Instruction Store and the parameters of a run (20_memory.md R66; 00_scope.md R8) -/

namespace Sys2Proof.Proofs

open Sys2Proof.Machine Sys2Proof.Laws

/-- Two states of one run: the parameters, the inputs of the fetch port and the loaded words are the same (R8, R53, R54). -/
structure SameProgram (s t : State) : Prop where
  width : t.width = s.width
  icap : t.icap = s.icap
  ldBase : t.ldBase = s.ldBase
  imem : t.imem = s.imem

theorem SameProgram.rfl {s : State} : SameProgram s s := ⟨Eq.refl _, Eq.refl _, Eq.refl _, Eq.refl _⟩

theorem SameProgram.trans {s t u : State} (hst : SameProgram s t) (htu : SameProgram t u) : SameProgram s u where
  width := htu.width.trans hst.width
  icap := htu.icap.trans hst.icap
  ldBase := htu.ldBase.trans hst.ldBase
  imem := htu.imem.trans hst.imem

/-- States of one run fetch the same words. -/
theorem SameProgram.iFetch_eq {s t : State} (h : SameProgram s t) (a : Word32) : t.iFetch a = s.iFetch a :=
  iFetch_congr h.ldBase h.imem a

/-- The fetch and the decode only latch registers (40_cycle.md R101 to R104). -/
theorem sameProgram_fetched (s : State) (w : InstrWord) (i : Instr) : SameProgram s (s.fetched w i) where
  width := fetched_width s w i
  icap := fetched_icap s w i
  ldBase := fetched_ldBase s w i
  imem := fetched_imem s w i

/-- No effect of an execute phase is on the program: STORE writes only the Data Store (20_memory.md R51, R66). -/
theorem exec_sameProgram {i : Instr} {s u : State} (h : exec i s = .next u) : SameProgram s u := by
  obtain ⟨-, -, hu⟩ | ⟨opd, -, ⟨-, hu⟩ | ⟨-, hu⟩ | ⟨-, hu⟩ | ⟨-, hu⟩⟩ |
    ⟨opd, -, ⟨v, rest, -, hu⟩ | ⟨-, hu⟩⟩ | ⟨opd, -, hu⟩ | ⟨opd, -, hu⟩ | ⟨opd, -, hu⟩ |
    ⟨opd, -, ⟨-, hu⟩ | ⟨-, hu⟩⟩ := exec_cases h
  all_goals cases hu; constructor <;> rfl

/-- No step changes the program: neither a failed fetch or decode, which write the record, nor an execute phase,
whether its writes are kept or taken back (40_cycle.md R107, R108). -/
theorem step_sameProgram {s t : State} (h : step s = .next t) : SameProgram s t := by
  obtain ⟨-, rfl⟩ | ⟨-, -, rfl⟩ | ⟨-, w, opc, -, -, rfl⟩ | ⟨-, w, i, u, -, -, hexec, hcommit⟩ := step_cases h
  · exact .rfl
  · constructor <;> simp
  · constructor <;> simp
  · obtain ⟨-, rfl⟩ | ⟨-, rfl⟩ := hcommit
    · constructor <;> simp
    · exact (sameProgram_fetched s w i).trans (exec_sameProgram hexec)

/-- Settles O26: every step keeps the loaded words and `ld_base`, which are all that a fetch reads. -/
theorem instructionStoreIsNeverWritten : Obligations.InstructionStoreIsNeverWritten := by
  intro s t h
  have hprog := step_sameProgram h
  exact ⟨hprog.imem, hprog.ldBase, hprog.iFetch_eq⟩

end Sys2Proof.Proofs

/-! ## The opcode table, from fields to instructions (30_encoding.md R80 to R84) -/

namespace Sys2Proof.Proofs

open Sys2Proof.Laws

/-- The decoder sees a word only through its two fields (R80). -/
theorem decode_append (opc opd : Word32) : decode (opc ++ opd) = decodeFields opc opd :=
  congrArg₂ decodeFields (opcField_joinFields opc opd) (opdField_joinFields opc opd)

/-- The opcode and the operand of an instruction are fields that decode to it (R82). -/
theorem decodeFields_opcode_operand (i : Instr) : decodeFields i.opcode i.operand = .ok i := by
  cases i <;> rfl

/-- Fields whose opcode is in no row of the table are refused, with the whole opcode field in the refusal (R84). -/
theorem decodeFields_of_opcode_ne {opc opd : Word32} (h : ∀ i : Instr, opc ≠ i.opcode) :
    decodeFields opc opd = .error (.unknownOpcode opc) :=
  (if_neg (h (.load opd))).trans <| (if_neg (h (.add opd))).trans <| (if_neg (h (.store opd))).trans <|
  (if_neg (h (.sub opd))).trans <| (if_neg (h (.in_ opd))).trans <| (if_neg (h (.out opd))).trans <|
  (if_neg (h (.end_ opd))).trans <| (if_neg (h (.jmp opd))).trans <| if_neg (h (.skipz opd))

/-- The opcodes of the table lie in 1 to 9 (R82). -/
theorem sint_opcode_bounds (i : Instr) : 1 ≤ sint i.opcode ∧ sint i.opcode ≤ 9 := by
  cases i <;> simp only [Instr.opcode] <;> decide

/-- The signed value fixes the whole opcode field, so it alone selects the instruction (R83). -/
theorem decode_append_of_sint_eq {opc : Word32} (i : Instr) (h : sint opc = sint i.opcode) :
    decode (opc ++ i.operand) = .ok i := by
  obtain rfl : opc = i.opcode := BitVec.eq_of_toInt_eq h
  rw [decode_append, decodeFields_opcode_operand]

/-- A word with a signed opcode outside 1 to 9 is no instruction, whatever its operand (R84). -/
theorem decode_append_of_sint_out_of_table {opc : Word32} (opd : Word32) (h : ¬ (1 ≤ sint opc ∧ sint opc ≤ 9)) :
    decode (opc ++ opd) = .error (.unknownOpcode opc) := by
  have hne : ∀ i : Instr, opc ≠ i.opcode := by
    rintro i rfl
    exact h (sint_opcode_bounds i)
  rw [decode_append, decodeFields_of_opcode_ne hne]

/-- Settles O2: one row of the table for each of the signed opcodes 1 to 9, and the refusal of every other. -/
theorem decoderFollowsOpcodeTable : Obligations.DecoderFollowsOpcodeTable := by
  intro opc opd
  exact ⟨decode_append_of_sint_eq (.load opd), decode_append_of_sint_eq (.add opd),
    decode_append_of_sint_eq (.store opd), decode_append_of_sint_eq (.sub opd),
    decode_append_of_sint_eq (.in_ opd), decode_append_of_sint_eq (.out opd),
    decode_append_of_sint_eq (.end_ opd), decode_append_of_sint_eq (.jmp opd),
    decode_append_of_sint_eq (.skipz opd), decode_append_of_sint_out_of_table opd⟩

end Sys2Proof.Proofs

/-! ## LOAD, ADD, STORE and SUB (41_data_memory.md R130 to R134) -/

namespace Sys2Proof.Proofs

open Sys2Proof.Machine Sys2Proof.Laws

/-- Where the address check passes, LOAD, ADD and SUB write `ACC` and nothing else (R130, R131, R133). -/
theorem accFromCell_of_legal {opd : Word32} (h : 0 ≤ sint opd ∧ sint opd ≤ 9) (s : State)
    (f : BitVec s.width → BitVec s.width) :
    accFromCell opd s f = .next (s.setAcc (f (s.cell (sint opd).toNat))) :=
  (accFromCell_eq opd s f).trans (if_pos ((dataAddressLegal_iff opd).2 h))

/-- Where the address check passes, STORE writes the Data Store and nothing else (R132). -/
theorem cellFromValue_of_legal {opd : Word32} (h : 0 ≤ sint opd ∧ sint opd ≤ 9) (s : State) (v : BitVec s.width) :
    cellFromValue opd s v = .next { s with ds := Memory.write s.ds (sint opd).toNat v } :=
  (cellFromValue_eq opd s v).trans (if_pos ((dataAddressLegal_iff opd).2 h))

/-- Where the address check fails, a data instruction raises AddressOutOfRange before any effect of its own (R134). -/
theorem exec_of_illegal {i : Instr} (hi : IsData i) (h : ¬ (0 ≤ sint i.operand ∧ sint i.operand ≤ 9)) (s : State) :
    exec i s = .next (s.raiseFatal .addressOutOfRange i.operand) := by
  have hcheck := mt (dataAddressLegal_iff i.operand).1 h
  cases i with
  | load opd | add opd | sub opd => exact (accFromCell_eq opd s _).trans (if_neg hcheck)
  | store opd => exact (cellFromValue_eq opd s _).trans (if_neg hcheck)
  | in_ _ | out _ | end_ _ | jmp _ | skipz _ => exact hi.elim

/-- Where the address check passes, a data instruction neither ends the run nor waits, and records no cause (R134). -/
theorem exec_continues_of_legal {i : Instr} (hi : IsData i) (h : 0 ≤ sint i.operand ∧ sint i.operand ≤ 9) (s : State) :
    ∃ t, exec i s = .next t ∧ t.run = s.run ∧ t.faultCause = s.faultCause ∧ t.inWait = s.inWait := by
  cases i with
  | load opd | add opd | sub opd => exact ⟨_, accFromCell_of_legal h s _, rfl, rfl, rfl⟩
  | store opd => exact ⟨_, cellFromValue_of_legal h s _, rfl, rfl, rfl⟩
  | in_ _ | out _ | end_ _ | jmp _ | skipz _ => exact hi.elim

/-- Only STORE has an effect on a cell: every other execute phase leaves the Data Store alone (R132). -/
theorem exec_cellNat_of_ne_store {i : Instr} {s t : State} (hi : ∀ opd, i ≠ .store opd) (h : exec i s = .next t)
    (a : Nat) : t.cellNat a = s.cellNat a := by
  obtain ⟨-, -, ht⟩ | ⟨opd, -, ⟨-, ht⟩ | ⟨-, ht⟩ | ⟨-, ht⟩ | ⟨hstore, -⟩⟩ |
    ⟨opd, -, ⟨v, rest, -, ht⟩ | ⟨-, ht⟩⟩ | ⟨opd, -, ht⟩ | ⟨opd, -, ht⟩ | ⟨opd, -, ht⟩ |
    ⟨opd, -, ⟨-, ht⟩ | ⟨-, ht⟩⟩ := exec_cases h
  case inr.inl.inr.inr.inr => exact absurd hstore (hi opd)
  all_goals cases ht; rfl

/-- Settles O17: the step is the execute phase from the fetched state, and the check decides what that answers. -/
theorem dataAddressIsCheckedFirst : Obligations.DataAddressIsCheckedFirst := by
  intro s w i opd hrun hfetch hdecode hmnemonic
  obtain ⟨hdata, rfl⟩ : IsData i ∧ i.operand = opd := by
    obtain rfl | rfl | rfl | rfl := hmnemonic <;> exact ⟨trivial, rfl⟩
  rw [step_executes hrun hfetch hdecode]
  constructor
  · intro hillegal
    rw [exec_of_illegal hdata hillegal, commit_of_go s (by simp)]
    rfl
  · intro hlegal
    obtain ⟨t, hexec, htrun, htcause, htwait⟩ := exec_continues_of_legal hdata hlegal (s.fetched w i)
    rw [hexec, commit_of_go s (htwait.trans (fetched_inWait s w i))]
    exact ⟨t, rfl, htrun.trans hrun, htcause⟩

/-- Settles O15: the new Data Store is the old one with one cell written, and its reads are those of `read_write`. -/
theorem storeWritesOneCell : Obligations.StoreWritesOneCell := by
  refine ⟨fun s opd => ⟨decode_append_of_sint_eq (.store opd) rfl, fun hlegal => ?_,
    fun hillegal => exec_of_illegal (i := .store opd) trivial hillegal s⟩,
    fun i s t hi hexec => exec_cellNat_of_ne_store hi hexec⟩
  refine ⟨_, cellFromValue_of_legal hlegal s s.acc, ?_, fun a ha => ?_⟩
  · rw [read_write, if_pos rfl]
  · rw [read_write, if_neg ha]

/-- Settles O13: LOAD writes `ACC` with the cell as it was read. -/
theorem loadCopiesCellToAccumulator : Obligations.LoadCopiesCellToAccumulator := fun s opd =>
  ⟨decode_append_of_sint_eq (.load opd) rfl, fun hlegal => accFromCell_of_legal hlegal s _,
    fun hillegal => exec_of_illegal (i := .load opd) trivial hillegal s, read_nil⟩

/-- Settles O14: ADD writes `ACC` with the sum, which `addW` defines modulo 2^W. -/
theorem addAddsCellToAccumulator : Obligations.AddAddsCellToAccumulator := fun s opd =>
  ⟨decode_append_of_sint_eq (.add opd) rfl, fun hlegal => accFromCell_of_legal hlegal s (addW s.acc),
    fun hillegal => exec_of_illegal (i := .add opd) trivial hillegal s⟩

/-- Settles O16: SUB writes `ACC` with the difference, which `subW` defines modulo 2^W. -/
theorem subSubtractsCellFromAccumulator : Obligations.SubSubtractsCellFromAccumulator := fun s opd =>
  ⟨decode_append_of_sint_eq (.sub opd) rfl, fun hlegal => accFromCell_of_legal hlegal s (subW s.acc),
    fun hillegal => exec_of_illegal (i := .sub opd) trivial hillegal s⟩

end Sys2Proof.Proofs

/-! ## OUT (42_io.md R161, R163) -/

namespace Sys2Proof.Proofs

open Sys2Proof.Machine Sys2Proof.Laws

/-- OUT emits `ACC` whatever its operand, and has no other outcome (R161, R163). -/
theorem exec_out (opd : Word32) (s : State) : exec (.out opd) s = .next (s.outEmit s.acc) := rfl

/-- Two values emitted one after the other stand in the output in that order (R163). -/
theorem outEmit_outEmit (s : State) (v v' : BitVec s.width) :
    (s.outEmit v).outEmit v' = { s with output := s.output ++ [v, v'] } := by
  have houtput : s.output ++ [v] ++ [v'] = s.output ++ [v, v'] := (List.append_cons s.output v [v']).symm
  exact congrArg (fun out => { s with output := out }) houtput

/-- Settles O31: `ACC` is the same after the first OUT, so the second emits it again. -/
theorem outAppendsAccumulator : Obligations.OutAppendsAccumulator := by
  intro s opd opd'
  have hfirst : exec (.out opd) s = .next (s.outEmit s.acc) := exec_out opd s
  have hsecond : exec (.out opd') (s.outEmit s.acc) = .next { s with output := s.output ++ [s.acc, s.acc] } :=
    (exec_out opd' (s.outEmit s.acc)).trans (congrArg _ (outEmit_outEmit s s.acc s.acc))
  exact ⟨decode_append_of_sint_eq (.out opd) rfl, hfirst, hsecond⟩

end Sys2Proof.Proofs

/-! ## END, JMP and SKIPZ (43_control.md R180 to R184) -/

namespace Sys2Proof.Proofs

open Sys2Proof.Machine Sys2Proof.Laws

/-- END signals the halt whatever its operand (R180). -/
theorem exec_end (opd : Word32) (s : State) : exec (.end_ opd) s = .next s.signalHalt := rfl

/-- JMP overwrites `PC` and checks nothing (R182). -/
theorem exec_jmp (opd : Word32) (s : State) : exec (.jmp opd) s = .next (s.setPc opd) := rfl

/-- SKIPZ advances `PC` where `ACC` is 0 (R184). -/
theorem exec_skipz_of_acc_eq_zero (opd : Word32) {s : State} (h : s.acc = 0) :
    exec (.skipz opd) s = .next s.advancePc :=
  congrArg Host.Outcome.next (if_pos ((accIsZero_iff s).2 h))

/-- SKIPZ does nothing where `ACC` is not 0 (R184). -/
theorem exec_skipz_of_acc_ne_zero (opd : Word32) {s : State} (h : s.acc ≠ 0) : exec (.skipz opd) s = .next s :=
  congrArg Host.Outcome.next (if_neg (mt (accIsZero_iff s).1 h))

/-- A step whose execute phase does not wait ends in what the execute phase answers (40_cycle.md R107, R108). -/
theorem step_of_exec_next {s t : State} {w : InstrWord} {i : Instr} (hrun : s.run = .running)
    (hfetch : s.iFetch s.pc = some w) (hdecode : decode w = .ok i) (hexec : exec i (s.fetched w i) = .next t)
    (hwait : t.inWait = false) : step s = .next t := by
  rw [step_executes hrun hfetch hdecode, hexec, commit_of_go s hwait]

/-- The only execute phase that ends in HALTED is END's (R180). -/
theorem exec_reaches_halted {i : Instr} {s t : State} (h : exec i s = .next t) (ht : t.run = .halted)
    (hs : s.run ≠ .halted) : ∃ opd, i = .end_ opd ∧ t = s.signalHalt := by
  obtain ⟨-, -, hu⟩ | ⟨opd, -, ⟨-, hu⟩ | ⟨-, hu⟩ | ⟨-, hu⟩ | ⟨-, hu⟩⟩ |
    ⟨opd, -, ⟨v, rest, -, hu⟩ | ⟨-, hu⟩⟩ | ⟨opd, -, hu⟩ | ⟨opd, hend, hu⟩ | ⟨opd, -, hu⟩ |
    ⟨opd, -, ⟨-, hu⟩ | ⟨-, hu⟩⟩ := exec_cases h
  case inr.inr.inr.inr.inl => exact ⟨opd, hend, Host.Outcome.next.inj hu⟩
  case inl => cases hu; exact absurd ht (by simp)
  all_goals cases hu; exact absurd ht hs

/-- The only step into HALTED is that of a fetched END, which halts in the state it executes in (R180). -/
theorem step_reaches_halted {s t : State} (h : step s = .next t) (ht : t.run = .halted) (hs : s.run ≠ .halted) :
    s.run = .running ∧ ∃ w opd, s.iFetch s.pc = some w ∧ decode w = .ok (.end_ opd) ∧
      t = (s.fetched w (.end_ opd)).signalHalt := by
  obtain ⟨-, rfl⟩ | ⟨-, -, rfl⟩ | ⟨-, w, opc, -, -, rfl⟩ | ⟨hrun, w, i, u, hfetch, hdecode, hexec, hcommit⟩ :=
    step_cases h
  · exact absurd ht hs
  · exact absurd ht (by simp)
  · exact absurd ht (by simp)
  · obtain ⟨-, rfl⟩ | ⟨-, rfl⟩ := hcommit
    · exact absurd ht hs
    · obtain ⟨opd, rfl, rfl⟩ := exec_reaches_halted hexec ht hs
      exact ⟨hrun, w, opd, hfetch, hdecode, rfl⟩

/-- Settles O35: the step into HALTED is an END's, and from HALTED a step changes nothing at all. -/
theorem endHaltsAndOnlyEndHalts : Obligations.EndHaltsAndOnlyEndHalts := by
  refine ⟨fun s opd => ⟨decode_append_of_sint_eq (.end_ opd) rfl, exec_end opd s⟩, fun s t hstep ht hs => ?_⟩
  obtain ⟨hrun, w, opd, hfetch, hdecode, rfl⟩ := step_reaches_halted hstep ht hs
  refine ⟨hrun, ⟨opd, w, hfetch, hdecode⟩, by simp, fun u hu => ?_⟩
  rw [step_of_not_running (by simp)] at hu
  cases hu
  exact ⟨rfl, rfl, rfl, rfl⟩

/-- The step of a JMP keeps running, at the target, with the program it had (R182). -/
theorem step_jmp {s : State} {opd : Word32} (hrun : s.run = .running) (habout : s.about (.jmp opd)) :
    ∃ t, step s = .next t ∧ t.run = .running ∧ t.pc = opd ∧ t.iFetch t.pc = s.iFetch opd := by
  obtain ⟨w, hfetch, hdecode⟩ := habout
  have hstep : step s = .next ((s.fetched w (.jmp opd)).setPc opd) :=
    step_of_exec_next hrun hfetch hdecode (exec_jmp opd _) (by simp)
  exact ⟨_, hstep, hrun, rfl, (step_sameProgram hstep).iFetch_eq opd⟩

/-- Settles O36: the next fetch is from the target because the step keeps the program. -/
theorem jmpSetsProgramCounter : Obligations.JmpSetsProgramCounter := fun s opd =>
  ⟨decode_append_of_sint_eq (.jmp opd) rfl, exec_jmp opd s, step_jmp⟩

/-- Settles O37: the JMP itself continues at the target, where nothing is loaded, so the next fetch fails. -/
theorem badJumpTargetFaultsAtNextFetch : Obligations.BadJumpTargetFaultsAtNextFetch := by
  intro s opd hrun habout htarget
  obtain ⟨t, hstep, htrun, rfl, hfetch⟩ := step_jmp hrun habout
  have hnone : t.iFetch t.pc = none := by
    rw [hfetch, iFetch_eq_none_iff, Bool.eq_false_iff, ne_eq, inLoadedRange_iff]
    exact htarget
  exact ⟨t, _, hstep, htrun, rfl, step_fetch_fails htrun hnone, rfl, rfl, rfl, rfl⟩

/-- The step of a SKIPZ keeps running, past one more word where `ACC` is 0 (R184). -/
theorem step_skipz {s : State} {opd : Word32} (hrun : s.run = .running) (habout : s.about (.skipz opd)) :
    ∃ t, step s = .next t ∧ t.run = .running ∧ t.pc = if s.acc = 0 then s.pc + 2 else s.pc + 1 := by
  obtain ⟨w, hfetch, hdecode⟩ := habout
  by_cases hacc : s.acc = 0
  · have hpc : s.pc + 1 + 1 = s.pc + 2 := BitVec.add_assoc s.pc 1 1
    exact ⟨_, step_of_exec_next hrun hfetch hdecode (exec_skipz_of_acc_eq_zero opd hacc) (by simp), hrun,
      hpc.trans (if_pos hacc).symm⟩
  · exact ⟨_, step_of_exec_next hrun hfetch hdecode (exec_skipz_of_acc_ne_zero opd hacc) (by simp), hrun,
      (if_neg hacc).symm⟩

/-- Settles O39: the two arms of SKIPZ, and its step from the fetched state. -/
theorem skipzSkipsExactlyOnZero : Obligations.SkipzSkipsExactlyOnZero := fun _ opd =>
  ⟨decode_append_of_sint_eq (.skipz opd) rfl, exec_skipz_of_acc_eq_zero opd, exec_skipz_of_acc_ne_zero opd,
    step_skipz⟩

end Sys2Proof.Proofs

/-! ## The fatal conditions (60_exceptions.md R200 to R207) -/

namespace Sys2Proof.Proofs

open Sys2Proof.Machine Sys2Proof.Laws

/-- Settles O9: the word decodes to no instruction whatever its operand is, so nothing executes. -/
theorem unknownOpcodeEndsRun : Obligations.UnknownOpcodeEndsRun := fun _ _ opd hrun hfetch hopc =>
  step_decode_fails hrun hfetch (decode_append_of_sint_out_of_table opd hopc)

/-- The only execute phase that ends in ERRORED is a data instruction's with an illegal address (R202). -/
theorem exec_reaches_errored {i : Instr} {s t : State} (h : exec i s = .next t) (ht : t.run = .errored)
    (hs : s.run ≠ .errored) :
    IsData i ∧ dataAddressLegal i.operand = false ∧ t = s.raiseFatal .addressOutOfRange i.operand := by
  obtain ⟨hdata, hillegal, hu⟩ | ⟨opd, -, ⟨-, hu⟩ | ⟨-, hu⟩ | ⟨-, hu⟩ | ⟨-, hu⟩⟩ |
    ⟨opd, -, ⟨v, rest, -, hu⟩ | ⟨-, hu⟩⟩ | ⟨opd, -, hu⟩ | ⟨opd, -, hu⟩ | ⟨opd, -, hu⟩ |
    ⟨opd, -, ⟨-, hu⟩ | ⟨-, hu⟩⟩ := exec_cases h
  case inl => exact ⟨hdata, hillegal, Host.Outcome.next.inj hu⟩
  case inr.inr.inr.inr.inl => cases hu; exact absurd ht (by simp)
  all_goals cases hu; exact absurd ht hs

/-- A step enters ERRORED in three ways (R200): the fetch fails, the decode fails, or a fetched data instruction has an
illegal address. -/
theorem step_reaches_errored {s t : State} (h : step s = .next t) (ht : t.run = .errored) (hs : s.run ≠ .errored) :
    (s.iFetch s.pc = none ∧ t = s.latchAddress.raiseFatal .invalidAddress s.pc) ∨
    (∃ w opc, s.iFetch s.pc = some w ∧ decode w = .error (.unknownOpcode opc) ∧
      t = (s.latchAddress.latchWord w).raiseFatal .unknownOpcode opc) ∨
    (∃ w i, s.iFetch s.pc = some w ∧ decode w = .ok i ∧ IsData i ∧ dataAddressLegal i.operand = false ∧
      t = (s.fetched w i).raiseFatal .addressOutOfRange i.operand) := by
  obtain ⟨-, rfl⟩ | ⟨-, hfetch, hfatal⟩ | ⟨-, w, opc, hfetch, hdecode, hfatal⟩ |
    ⟨-, w, i, u, hfetch, hdecode, hexec, hcommit⟩ := step_cases h
  · exact absurd ht hs
  · exact .inl ⟨hfetch, hfatal⟩
  · exact .inr (.inl ⟨w, opc, hfetch, hdecode, hfatal⟩)
  · obtain ⟨-, rfl⟩ | ⟨-, rfl⟩ := hcommit
    · exact absurd ht hs
    · exact .inr (.inr ⟨w, i, hfetch, hdecode, exec_reaches_errored hexec ht hs⟩)

/-- Settles O41: each of the three ways into ERRORED writes the record over what was latched until then. -/
theorem faultingStepHasNoEffectOfItsOwn : Obligations.FaultingStepHasNoEffectOfItsOwn := by
  intro s t hrun hstep ht
  obtain ⟨-, rfl⟩ | ⟨w, opc, -, -, rfl⟩ | ⟨w, i, -, -, -, -, rfl⟩ :=
    step_reaches_errored hstep ht (by simp [hrun])
  · exact ⟨s.pc, s.ir, s.dir, rfl, .inl rfl, fun _ => ⟨rfl, rfl, rfl⟩, by simp, by simp⟩
  · exact ⟨s.pc + 1, w, s.dir, rfl, .inr rfl, by simp, fun _ => ⟨rfl, rfl⟩, by simp⟩
  · exact ⟨s.pc + 1, w, i, rfl, .inr rfl, by simp, by simp, fun _ => rfl⟩

end Sys2Proof.Proofs

/-! ## Encoder and decoder are inverse (30_encoding.md R80 to R90) -/

namespace Sys2Proof.Proofs

open Sys2Proof.Laws

/-- Fields decode to an instruction exactly when they are that instruction's own (R82, R83). -/
theorem decodeFields_eq_ok_iff {opc opd : Word32} {i : Instr} :
    decodeFields opc opd = .ok i ↔ opc = i.opcode ∧ opd = i.operand := by
  constructor
  · intro h
    unfold decodeFields at h
    split_ifs at h with hopc hopc hopc hopc hopc hopc hopc hopc hopc
    all_goals cases h; exact ⟨hopc, rfl⟩
  · rintro ⟨rfl, rfl⟩
    exact decodeFields_opcode_operand i

/-- A word decodes to an instruction exactly when its two fields are that instruction's own (R80, R82). -/
theorem decode_eq_ok_iff {w : InstrWord} {i : Instr} :
    decode w = .ok i ↔ opcField w = i.opcode ∧ opdField w = i.operand :=
  decodeFields_eq_ok_iff

/-- Settles O3: the fields of an encoded instruction are its own. -/
theorem decodeOfEncodeIsIdentity : Obligations.DecodeOfEncodeIsIdentity := fun i _ =>
  decode_eq_ok_iff.2 (EncodeFields.of i)

/-- Settles O4: the word is its two fields joined, and both are the instruction's. -/
theorem encodeOfDecodeIsIdentity : Obligations.EncodeOfDecodeIsIdentity := by
  intro w i h
  obtain ⟨hopc, hopd⟩ := decode_eq_ok_iff.1 h
  calc encode i = joinFields (opcField w) (opdField w) := by rw [encode, hopc, hopd]
    _ = w := joinFields_fields w

/-- Joined fields decode to an instruction exactly when they are its own (R80, R82). -/
theorem decode_append_eq_ok_iff {opc opd : Word32} {i : Instr} :
    decode (opc ++ opd) = .ok i ↔ opc = i.opcode ∧ opd = i.operand := by
  rw [decode_append, decodeFields_eq_ok_iff]

/-- A word is an instruction exactly when its signed opcode is one of the table's, 1 to 9 (R83, R84). -/
theorem exists_decode_append_iff (opc opd : Word32) :
    (∃ i, decode (opc ++ opd) = .ok i) ↔ 1 ≤ sint opc ∧ sint opc ≤ 9 := by
  constructor
  · rintro ⟨i, h⟩
    obtain ⟨rfl, -⟩ := decode_append_eq_ok_iff.1 h
    exact sint_opcode_bounds i
  · intro hopc
    obtain ⟨h1, h2, h3, h4, h5, h6, h7, h8, h9, -⟩ := decoderFollowsOpcodeTable opc opd
    have hvalue : sint opc = 1 ∨ sint opc = 2 ∨ sint opc = 3 ∨ sint opc = 4 ∨ sint opc = 5 ∨ sint opc = 6 ∨
        sint opc = 7 ∨ sint opc = 8 ∨ sint opc = 9 := by omega
    obtain h | h | h | h | h | h | h | h | h := hvalue
    exacts [⟨_, h1 h⟩, ⟨_, h2 h⟩, ⟨_, h3 h⟩, ⟨_, h4 h⟩, ⟨_, h5 h⟩, ⟨_, h6 h⟩, ⟨_, h7 h⟩, ⟨_, h8 h⟩, ⟨_, h9 h⟩]

/-- A word that decodes to no instruction has its signed opcode outside the table, and the refusal carries it (R84). -/
theorem decode_eq_error_iff {w : InstrWord} {opc : Word32} :
    decode w = .error (.unknownOpcode opc) ↔ opcField w = opc ∧ ¬ (1 ≤ sint opc ∧ sint opc ≤ 9) := by
  rw [← joinFields_fields w, opcField_joinFields]
  by_cases hopc : 1 ≤ sint (opcField w) ∧ sint (opcField w) ≤ 9
  · obtain ⟨i, hi⟩ := (exists_decode_append_iff (opcField w) (opdField w)).2 hopc
    constructor
    · intro h
      exact absurd (hi.symm.trans h) (by simp)
    · rintro ⟨rfl, h⟩
      exact absurd hopc h
  · have hrefused := decode_append_of_sint_out_of_table (opdField w) hopc
    constructor
    · intro h
      cases hrefused.symm.trans h
      exact ⟨rfl, hopc⟩
    · rintro ⟨rfl, -⟩
      exact hrefused

/-- An integer that a 32-bit field holds reads back from its pattern (R80). -/
theorem sint_bv_of_fits32 {k : Int} (h : fits32 k = true) : sint (bv 32 k) = k := by
  simp only [fits32, Bool.and_eq_true, decide_eq_true_eq] at h
  exact BitVec.toInt_ofInt_eq_self (by decide) h.1 h.2

/-- Settles O6: both fields are patterns of integers that fit, so the signed opcode is the integer written. -/
theorem numberPairWordKeepsBothIntegers : Obligations.NumberPairWordKeepsBothIntegers := by
  intro l hwf
  obtain ⟨hopc, hopd⟩ := Bool.and_eq_true_iff.1 hwf
  refine ⟨_, if_pos hwf, ?_, ?_, ?_⟩
  · rw [opcField_joinFields, sint_bv_of_fits32 hopc]
  · rw [opdField_joinFields, sint_bv_of_fits32 hopd]
  · have hdecodes := exists_decode_append_iff (bv 32 l.opcode) (bv 32 l.operand)
    rwa [sint_bv_of_fits32 hopc] at hdecodes

/-- The number of a mnemonic is the opcode of its instruction, and the operand stands in the operand field (R82). -/
theorem mnemonic_instr_fields (m : Mnemonic) (opd : Word32) :
    bv 32 m.opcode = (m.instr opd).opcode ∧ opd = (m.instr opd).operand := by
  cases m <;> exact ⟨rfl, rfl⟩

/-- The operand of a well-formed assembler line fits its field, the 0 of a line without one too (R89). -/
theorem fits32_operandValue {l : AsmLine} (h : l.wellFormed = true) : fits32 l.operandValue = true := by
  unfold AsmLine.wellFormed at h
  unfold AsmLine.operandValue
  cases hopd : l.operand with
  | none => decide
  | some d =>
    rw [hopd] at h
    exact (Bool.and_eq_true_iff.1 h).2

/-- Settles O5: the fields of the line's word are those of its mnemonic's instruction. -/
theorem assembledLineDecodes : Obligations.AssembledLineDecodes := by
  intro l hwf
  refine ⟨_, if_pos hwf, decode_append_eq_ok_iff.2 (mnemonic_instr_fields l.mnemonic _), ?_⟩
  rw [opdField_joinFields, sint_bv_of_fits32 (fits32_operandValue hwf)]

/-- Settles O1: the fields of each word, read off, are those of its instruction; 0x63 is in no row of the table. -/
theorem writtenWordsDecode : Obligations.WrittenWordsDecode :=
  ⟨decode_eq_ok_iff.2 (by decide), decode_eq_ok_iff.2 (by decide), decode_eq_ok_iff.2 (by decide),
    decode_eq_ok_iff.2 (by decide), decode_eq_error_iff.2 (by decide)⟩

end Sys2Proof.Proofs

/-! ## What an execute phase and a step answer, as relations (40_cycle.md R105 to R108) -/

namespace Sys2Proof.Proofs

open Sys2Proof.Machine Sys2Proof.Laws

/-- The effects of the execute phase, one rule per effect: `exec_cases` as an inductive relation, so that a proof about
every effect is a case split with names. `exec_eq_next_iff` ties it to `exec`. -/
inductive ExecEffect (s : State) : Instr → State → Prop
  | fatal {i : Instr} (hdata : IsData i) (hillegal : dataAddressLegal i.operand = false) :
      ExecEffect s i (s.raiseFatal .addressOutOfRange i.operand)
  | load {opd : Word32} (hlegal : dataAddressLegal opd = true) :
      ExecEffect s (.load opd) (s.setAcc (s.cell (sint opd).toNat))
  | add {opd : Word32} (hlegal : dataAddressLegal opd = true) :
      ExecEffect s (.add opd) (s.setAcc (s.acc + s.cell (sint opd).toNat))
  | sub {opd : Word32} (hlegal : dataAddressLegal opd = true) :
      ExecEffect s (.sub opd) (s.setAcc (s.acc - s.cell (sint opd).toNat))
  | store {opd : Word32} (hlegal : dataAddressLegal opd = true) :
      ExecEffect s (.store opd) { s with ds := Memory.write s.ds (sint opd).toNat s.acc }
  | inTakes {opd : Word32} {v : BitVec s.width} {rest : List (BitVec s.width)} (hinput : s.input = v :: rest) :
      ExecEffect s (.in_ opd) { s with acc := v, input := rest }
  | inWaits {opd : Word32} (hinput : s.input = []) : ExecEffect s (.in_ opd) s.setInWait
  | out {opd : Word32} : ExecEffect s (.out opd) (s.outEmit s.acc)
  | halt {opd : Word32} : ExecEffect s (.end_ opd) s.signalHalt
  | jmp {opd : Word32} : ExecEffect s (.jmp opd) (s.setPc opd)
  | skips {opd : Word32} (hzero : s.acc = 0) : ExecEffect s (.skipz opd) s.advancePc
  | skipsNot {opd : Word32} (hnonzero : s.acc ≠ 0) : ExecEffect s (.skipz opd) s

/-- Every execute phase answers a next state, and an effect leads to it (R105). -/
theorem exec_total (i : Instr) (s : State) : ∃ t, exec i s = .next t ∧ ExecEffect s i t := by
  obtain ⟨hdata, hillegal, ho⟩ | ⟨opd, hlegal, ⟨rfl, ho⟩ | ⟨rfl, ho⟩ | ⟨rfl, ho⟩ | ⟨rfl, ho⟩⟩ |
    ⟨opd, rfl, ⟨v, rest, hinput, ho⟩ | ⟨hinput, ho⟩⟩ | ⟨opd, rfl, ho⟩ | ⟨opd, rfl, ho⟩ | ⟨opd, rfl, ho⟩ |
    ⟨opd, rfl, ⟨hzero, ho⟩ | ⟨hnonzero, ho⟩⟩ := exec_cases (Eq.refl (exec i s))
  exacts [⟨_, ho, .fatal hdata hillegal⟩, ⟨_, ho, .load hlegal⟩, ⟨_, ho, .add hlegal⟩, ⟨_, ho, .sub hlegal⟩,
    ⟨_, ho, .store hlegal⟩, ⟨_, ho, .inTakes hinput⟩, ⟨_, ho, .inWaits hinput⟩, ⟨_, ho, .out⟩, ⟨_, ho, .halt⟩,
    ⟨_, ho, .jmp⟩, ⟨_, ho, .skips hzero⟩, ⟨_, ho, .skipsNot hnonzero⟩]

/-- The effects are exactly what `exec` answers. -/
theorem exec_eq_next_iff {i : Instr} {s t : State} : exec i s = .next t ↔ ExecEffect s i t := by
  constructor
  · intro h
    obtain ⟨u, hu, heffect⟩ := exec_total i s
    cases hu.symm.trans h
    exact heffect
  · intro h
    cases h with
    | fatal hdata hillegal =>
      exact exec_of_illegal hdata (fun hlegal => by simp [(dataAddressLegal_iff _).2 hlegal] at hillegal) s
    | load hlegal => exact accFromCell_of_legal ((dataAddressLegal_iff _).1 hlegal) s _
    | add hlegal =>
      rw [← addW_eq]
      exact accFromCell_of_legal ((dataAddressLegal_iff _).1 hlegal) s (addW s.acc)
    | sub hlegal =>
      rw [← subW_eq]
      exact accFromCell_of_legal ((dataAddressLegal_iff _).1 hlegal) s (subW s.acc)
    | store hlegal => exact cellFromValue_of_legal ((dataAddressLegal_iff _).1 hlegal) s s.acc
    | inTakes hinput => exact execIn_cons hinput
    | inWaits hinput => exact execIn_nil hinput
    | out => exact exec_out _ s
    | halt => exact exec_end _ s
    | jmp => exact exec_jmp _ s
    | skips hzero => exact exec_skipz_of_acc_eq_zero _ hzero
    | skipsNot hnonzero => exact exec_skipz_of_acc_ne_zero _ hnonzero

/-- Only an IN with nothing presented turns the wait bit on (10_state.md R37; 42_io.md R162). -/
theorem ExecEffect.exists_in_of_inWait {i : Instr} {s u : State} (h : ExecEffect s i u) (hs : s.inWait = false)
    (hu : u.inWait = true) : ∃ opd, i = .in_ opd ∧ s.input = [] := by
  cases h with
  | inWaits hinput => exact ⟨_, rfl, hinput⟩
  | _ => exact absurd hu (by simp [hs])

/-- The ways a step reaches its next state, one rule per way: `step_cases` as an inductive relation, with the one
outcome that waits, an IN's with nothing presented, told from the others. `step_eq_next_iff` ties it to `step`. -/
inductive StepEffect (s : State) : State → Prop
  | frozen (hrun : s.run ≠ .running) : StepEffect s s
  | fetchFails (hrun : s.run = .running) (hfetch : s.iFetch s.pc = none) :
      StepEffect s (s.latchAddress.raiseFatal .invalidAddress s.pc)
  | decodeFails {w : InstrWord} {opc : Word32} (hrun : s.run = .running) (hfetch : s.iFetch s.pc = some w)
      (hdecode : decode w = .error (.unknownOpcode opc)) :
      StepEffect s ((s.latchAddress.latchWord w).raiseFatal .unknownOpcode opc)
  | waits {opd : Word32} (hrun : s.run = .running) (habout : s.about (.in_ opd)) (hinput : s.input = []) :
      StepEffect s s.setInWait
  | executes {w : InstrWord} {i : Instr} {u : State} (hrun : s.run = .running) (hfetch : s.iFetch s.pc = some w)
      (hdecode : decode w = .ok i) (heffect : ExecEffect (s.fetched w i) i u) (hgo : u.inWait = false) :
      StepEffect s u

/-- The step of an IN with nothing presented is taken back, but for the wait bit (42_io.md R162; R108). -/
theorem step_of_in_waits {s : State} {opd : Word32} (hrun : s.run = .running) (habout : s.about (.in_ opd))
    (hinput : s.input = []) : step s = .next s.setInWait := by
  obtain ⟨w, hfetch, hdecode⟩ := habout
  have hexec : exec (.in_ opd) (s.fetched w (.in_ opd)) = .next (s.fetched w (.in_ opd)).setInWait :=
    execIn_nil hinput
  rw [step_executes hrun hfetch hdecode, hexec, commit_of_wait s rfl]

/-- The ways are exactly what `step` answers. -/
theorem step_eq_next_iff {s t : State} : step s = .next t ↔ StepEffect s t := by
  constructor
  · intro h
    obtain ⟨hrun, rfl⟩ | ⟨hrun, hfetch, rfl⟩ | ⟨hrun, w, opc, hfetch, hdecode, rfl⟩ |
      ⟨hrun, w, i, u, hfetch, hdecode, hexec, ⟨hwait, rfl⟩ | ⟨hgo, rfl⟩⟩ := step_cases h
    · exact .frozen hrun
    · exact .fetchFails hrun hfetch
    · exact .decodeFails hrun hfetch hdecode
    · obtain ⟨opd, rfl, hinput⟩ := (exec_eq_next_iff.1 hexec).exists_in_of_inWait (fetched_inWait s w i) hwait
      exact .waits hrun ⟨w, hfetch, hdecode⟩ hinput
    · exact .executes hrun hfetch hdecode (exec_eq_next_iff.1 hexec) hgo
  · intro h
    cases h with
    | frozen hrun => exact step_of_not_running hrun
    | fetchFails hrun hfetch => exact step_fetch_fails hrun hfetch
    | decodeFails hrun hfetch hdecode => exact step_decode_fails hrun hfetch hdecode
    | waits hrun habout hinput => exact step_of_in_waits hrun habout hinput
    | executes hrun hfetch hdecode heffect hgo =>
      exact step_of_exec_next hrun hfetch hdecode (exec_eq_next_iff.2 heffect) hgo

/-- From every state a step answers a next state (R100, R105). -/
theorem step_total (s : State) : ∃ t, step s = .next t := by
  by_cases hrun : s.run = .running
  · cases hfetch : s.iFetch s.pc with
    | none => exact ⟨_, step_fetch_fails hrun hfetch⟩
    | some w =>
      cases hdecode : decode w with
      | error e => exact ⟨_, step_decode_fails hrun hfetch hdecode⟩
      | ok i =>
        obtain ⟨u, hexec, -⟩ := exec_total i (s.fetched w i)
        rw [step_executes hrun hfetch hdecode, hexec]
        cases hwait : u.inWait
        · exact ⟨_, commit_of_go s hwait⟩
        · exact ⟨_, commit_of_wait s hwait⟩
  · exact ⟨_, step_of_not_running hrun⟩

/-- Settles O51: every instruction has an effect in every state, and `commit` answers a next state to each. -/
theorem everyStepAnswersANextState : Obligations.EveryStepAnswersANextState :=
  ⟨fun i s => (exec_total i s).imp fun _ h => h.1, step_total⟩

end Sys2Proof.Proofs

/-! ## What a step may change: the cells, the Accumulator, the streams (10_state.md R20, R35; 20_memory.md R60, R63) -/

namespace Sys2Proof.Proofs

open Sys2Proof.Machine Sys2Proof.Laws

/-- The one effect on a cell is a STORE's, of `ACC` (20_memory.md R60). -/
theorem ExecEffect.store_of_cellNat_ne {i : Instr} {s u : State} {a : Nat} (h : ExecEffect s i u)
    (hne : u.cellNat a ≠ s.cellNat a) :
    ∃ opd, i = .store opd ∧ sint opd = a ∧ 0 ≤ sint opd ∧ sint opd ≤ 9 ∧ u.cellNat a = s.accNat := by
  cases h with
  | @store opd hlegal =>
    obtain ⟨h0, h9⟩ := (dataAddressLegal_iff opd).1 hlegal
    have hread := read_write s.ds (sint opd).toNat a s.acc
    by_cases ha : a = (sint opd).toNat
    · rw [if_pos ha] at hread
      exact ⟨opd, rfl, by omega, h0, h9, congrArg BitVec.toNat hread⟩
    · rw [if_neg ha] at hread
      exact absurd (congrArg BitVec.toNat hread) hne
  | _ => exact absurd rfl hne

/-- Settles O22: the fetch, the decode and a wait leave the Data Store, and a STORE changes the one cell. -/
theorem onlyStoreChangesACell : Obligations.OnlyStoreChangesACell := by
  intro s t a hstep hne
  cases step_eq_next_iff.1 hstep with
  | @executes w i u hrun hfetch hdecode heffect hgo =>
    obtain ⟨opd, rfl, ha, h0, h9, hcell⟩ := heffect.store_of_cellNat_ne hne
    exact ⟨hrun, opd, ⟨w, hfetch, hdecode⟩, ha, h0, h9, hcell⟩
  | _ => exact absurd rfl hne

/-- Settles O23, by induction on the number of steps: the cell differs after the first step, which then was the STORE,
or the rest of the run has it. -/
theorem cellKeepsValueUntilStored : Obligations.CellKeepsValueUntilStored := by
  intro k
  induction k with
  | zero =>
    intro s t a hstop hne
    cases hstop
    exact absurd rfl hne
  | succ k ih =>
    intro s t a hstop hne
    obtain ⟨s', hstep⟩ := step_total s
    rw [run_succ k hstep] at hstop
    by_cases hfirst : s'.cellNat a = s.cellNat a
    · obtain ⟨j, u, opd, hj, hu, hrun, habout, ha⟩ := ih s' t a hstop (hfirst ▸ hne)
      exact ⟨j + 1, u, opd, by omega, (run_succ j hstep).trans hu, hrun, habout, ha⟩
    · obtain ⟨hrun, opd, habout, ha, -⟩ := onlyStoreChangesACell s s' a hstep hfirst
      exact ⟨0, s, opd, by omega, run_zero s, hrun, habout, ha⟩

/-- The effects on `ACC` are those of LOAD, ADD, SUB and IN (10_state.md R20). -/
theorem ExecEffect.writer_of_accNat_ne {i : Instr} {s u : State} (h : ExecEffect s i u) (hne : u.accNat ≠ s.accNat) :
    ∃ opd, i = .load opd ∨ i = .add opd ∨ i = .sub opd ∨ i = .in_ opd := by
  cases h with
  | @load opd => exact ⟨opd, .inl rfl⟩
  | @add opd => exact ⟨opd, .inr (.inl rfl)⟩
  | @sub opd => exact ⟨opd, .inr (.inr (.inl rfl))⟩
  | @inTakes opd => exact ⟨opd, .inr (.inr (.inr rfl))⟩
  | _ => exact absurd rfl hne

/-- Settles O24: outside an execute phase no step writes `ACC`. -/
theorem onlyFourInstructionsWriteAccumulator : Obligations.OnlyFourInstructionsWriteAccumulator := by
  intro s t hstep hne
  cases step_eq_next_iff.1 hstep with
  | @executes w i u hrun hfetch hdecode heffect hgo =>
    have habout : s.about i := ⟨w, hfetch, hdecode⟩
    obtain ⟨opd, rfl | rfl | rfl | rfl⟩ := heffect.writer_of_accNat_ne hne
    exacts [⟨hrun, opd, .inl habout⟩, ⟨hrun, opd, .inr (.inl habout)⟩, ⟨hrun, opd, .inr (.inr (.inl habout))⟩,
      ⟨hrun, opd, .inr (.inr (.inr habout))⟩]
  | _ => exact absurd rfl hne

/-- The one effect on the output is an OUT's (42_io.md R161, R163). -/
theorem ExecEffect.output_cases {i : Instr} {s u : State} (h : ExecEffect s i u) :
    u.output.map BitVec.toNat = s.output.map BitVec.toNat ∨
      ∃ opd, i = .out opd ∧ u.output.map BitVec.toNat = s.output.map BitVec.toNat ++ [s.accNat] := by
  cases h with
  | @out opd => exact .inr ⟨opd, rfl, List.map_append⟩
  | _ => exact .inl rfl

/-- The one effect on the input is an IN's, of a value presented (42_io.md R160, R162). -/
theorem ExecEffect.input_cases {i : Instr} {s u : State} (h : ExecEffect s i u) :
    u.input.map BitVec.toNat = s.input.map BitVec.toNat ∨
      ∃ opd v rest, i = .in_ opd ∧ s.input = v :: rest ∧ u.accNat = uint v ∧
        u.input.map BitVec.toNat = rest.map BitVec.toNat := by
  cases h with
  | @inTakes opd v rest hinput => exact .inr ⟨opd, v, rest, rfl, hinput, rfl, rfl⟩
  | _ => exact .inl rfl

/-- Settles O32: outside an execute phase no step moves a stream. -/
theorem streamsMoveOnlyByInAndOut : Obligations.StreamsMoveOnlyByInAndOut := by
  intro s t hstep
  cases step_eq_next_iff.1 hstep with
  | @executes w i u hrun hfetch hdecode heffect hgo =>
    have habout : s.about i := ⟨w, hfetch, hdecode⟩
    constructor
    · obtain hsame | ⟨opd, rfl, hout⟩ := heffect.output_cases
      · exact .inl hsame
      · exact .inr ⟨opd, habout, hout⟩
    · obtain hsame | ⟨opd, v, rest, rfl, hinput, hacc, hrest⟩ := heffect.input_cases
      · exact .inl hsame
      · exact .inr ⟨opd, v, rest, habout, hinput, hacc, hrest⟩
  | _ => exact ⟨.inl rfl, .inl rfl⟩

end Sys2Proof.Proofs

/-! ## What a step does not depend on: later input and the transient registers (40_cycle.md R109; 10_state.md R34) -/

namespace Sys2Proof.Proofs

open Sys2Proof.Machine Sys2Proof.Laws

/-- A value presented behind the others leaves every effect but a wait as it is (40_cycle.md R109). -/
theorem ExecEffect.present {i : Instr} {s u : State} (h : ExecEffect s i u) (hgo : u.inWait = false) (v : Nat) :
    ExecEffect (s.present v) i (u.present v) := by
  cases h with
  | fatal hdata hillegal => exact .fatal hdata hillegal
  | load hlegal => exact .load hlegal
  | add hlegal => exact .add hlegal
  | sub hlegal => exact .sub hlegal
  | store hlegal => exact .store hlegal
  | inTakes hinput => exact .inTakes (congrArg (· ++ [BitVec.ofNat s.width v]) hinput)
  | inWaits => exact absurd hgo (by simp)
  | out => exact .out
  | halt => exact .halt
  | jmp => exact .jmp
  | skips hzero => exact .skips hzero
  | skipsNot hnonzero => exact .skipsNot hnonzero

/-- Settles O33: fetch and decode do not read the input, and no effect but a wait depends on how far it reaches. -/
theorem inputArrivalChangesNoCommittedStep : Obligations.InputArrivalChangesNoCommittedStep := by
  intro s t v hstep hcommitted
  refine step_eq_next_iff.2 ?_
  cases step_eq_next_iff.1 hstep with
  | frozen hrun => exact .frozen hrun
  | fetchFails hrun hfetch => exact .fetchFails hrun hfetch
  | decodeFails hrun hfetch hdecode => exact .decodeFails hrun hfetch hdecode
  | waits => exact absurd hcommitted (by simp)
  | executes hrun hfetch hdecode heffect hgo => exact .executes hrun hfetch hdecode (heffect.present hgo v) hgo

/-- Settles O52: an instruction executes in a state whose MAR, IR and DIR were latched by its own fetch and decode, so
only a step that latches less than all three leaves any of the old values. -/
theorem transientRegistersAreUnobservable : Obligations.TransientRegistersAreUnobservable := by
  intro s m r d
  obtain ⟨t, hstep⟩ := step_total s
  refine ⟨t, ?_⟩
  simp only [hstep, step_eq_next_iff, true_and]
  cases step_eq_next_iff.1 hstep with
  | frozen hrun => exact ⟨m, r, d, .frozen hrun⟩
  | fetchFails hrun hfetch => exact ⟨s.pc, r, d, .fetchFails hrun hfetch⟩
  | @decodeFails w _ hrun hfetch hdecode => exact ⟨s.pc, w, d, .decodeFails hrun hfetch hdecode⟩
  | waits hrun habout hinput => exact ⟨m, r, d, .waits hrun habout hinput⟩
  | executes hrun hfetch hdecode heffect hgo => exact ⟨t.mar, t.ir, t.dir, .executes hrun hfetch hdecode heffect hgo⟩

end Sys2Proof.Proofs

/-! ## The invariant, and what a final state records (10_state.md R31, R32, R35, R37; 60_exceptions.md R200 to R207) -/

namespace Sys2Proof.Proofs

open Sys2Proof.Machine Sys2Proof.Laws

/-- The constraints of R8 are on the program alone. -/
theorem SameProgram.paramsOk {s t : State} (h : SameProgram s t) (hs : s.paramsOk) : t.paramsOk := by
  rw [State.paramsOk, h.width, h.imem, h.icap, h.ldBase]
  exact hs

/-- The one effect on the Data Store is a write in range, which keeps the canonical form. -/
theorem ExecEffect.wf {i : Instr} {s u : State} (h : ExecEffect s i u) (hs : Memory.wf s.ds = true) :
    Memory.wf u.ds = true := by
  cases h with
  | @store opd hlegal =>
    obtain ⟨a, -, hvalue, hrange⟩ := dataAddress_legal hlegal
    exact wf_write hs (hvalue ▸ hrange) s.acc
  | _ => exact hs

/-- Every step keeps the canonical form of the Data Store. -/
theorem step_wf {s t : State} (h : step s = .next t) (hs : Memory.wf s.ds = true) : Memory.wf t.ds = true := by
  cases step_eq_next_iff.1 h with
  | executes _ _ _ heffect _ => exact heffect.wf hs
  | _ => exact hs

/-- A fatal condition with a cause leaves a coherent record (60_exceptions.md R205). -/
theorem recordOk_raiseFatal (s : State) {c : FaultCause} (hc : c ≠ .none) (x : Word32) :
    (s.raiseFatal c x).recordOk :=
  ⟨by simp [hc], by simp⟩

/-- The record is coherent where it says nothing and the run is not in ERRORED (10_state.md R31, R32). -/
theorem recordOk_of_clear {s : State} (hrun : s.run ≠ .errored) (hcause : s.faultCause = .none)
    (hinfo : s.faultInfo = 0) : s.recordOk :=
  ⟨by simp [hrun, hcause], fun _ => hinfo⟩

/-- A coherent record outside ERRORED says nothing. -/
theorem clear_of_recordOk {s : State} (h : s.recordOk) (hrun : s.run ≠ .errored) :
    s.faultCause = .none ∧ s.faultInfo = 0 := by
  obtain ⟨hiff, hinfo⟩ := h
  exact ⟨not_not.1 fun hcause => hrun (hiff.2 hcause), hinfo hrun⟩

/-- An execute phase in RUNNING leaves a coherent record: only a fatal condition writes it. -/
theorem ExecEffect.recordOk {i : Instr} {s u : State} (h : ExecEffect s i u) (hrun : s.run = .running)
    (hs : s.recordOk) : u.recordOk := by
  cases h with
  | fatal => exact recordOk_raiseFatal s (by simp) _
  | halt =>
    obtain ⟨hcause, hinfo⟩ := clear_of_recordOk hs (by simp [hrun])
    exact recordOk_of_clear (by simp) hcause hinfo
  | _ => exact hs

/-- Every step keeps the record coherent. -/
theorem step_recordOk {s t : State} (h : step s = .next t) (hs : s.recordOk) : t.recordOk := by
  cases step_eq_next_iff.1 h with
  | fetchFails => exact recordOk_raiseFatal _ (by simp) _
  | decodeFails => exact recordOk_raiseFatal _ (by simp) _
  | executes hrun _ _ heffect _ => exact heffect.recordOk hrun hs
  | frozen | waits => exact hs

/-- Every step keeps the wait bit coherent: it is on only after an IN that waited, which is still at `PC`. -/
theorem step_waitOk {s t : State} (h : step s = .next t) (hs : s.waitOk) : t.waitOk := by
  cases step_eq_next_iff.1 h with
  | frozen => exact hs
  | waits hrun habout => exact fun _ => ⟨hrun, _, habout⟩
  | executes _ _ _ _ hgo => exact fun hwait => absurd (hgo.symm.trans hwait) (by simp)
  | fetchFails | decodeFails => exact nofun

/-- Settles O48: each of the four parts is kept by itself. -/
theorem everyStepKeepsInvariant : Obligations.EveryStepKeepsInvariant := by
  rintro s t ⟨hparams, hds, hrecord, hwait⟩ hstep
  exact ⟨(step_sameProgram hstep).paramsOk hparams, step_wf hstep hds, step_recordOk hstep hrecord,
    step_waitOk hstep hwait⟩

/-- The four data instructions are those of the opcodes 1 to 4 (R82). -/
theorem isData_iff (i : Instr) : IsData i ↔ sint i.opcode ≤ 4 := by
  cases i <;> simp only [IsData, Instr.opcode, true_iff, false_iff] <;> decide

/-- The word that a step has fetched is, after the fetch increment, the word before `PC` (40_cycle.md R102). -/
theorem iFetch_pred_of_step {s t : State} {w : InstrWord} (hstep : step s = .next t) (hpc : t.pc = s.pc + 1)
    (hfetch : s.iFetch s.pc = some w) : t.iFetch (t.pc - 1) = some w := by
  rw [(step_sameProgram hstep).iFetch_eq, hpc, BitVec.add_sub_cancel, hfetch]

/-- A step that ends a run records what did end it. -/
theorem step_endTruthful_of_running {s t : State} (hrun : s.run = .running) (hstep : step s = .next t) :
    t.endTruthful := by
  constructor
  · intro hhalted
    obtain ⟨-, w, opd, hfetch, hdecode, rfl⟩ := step_reaches_halted hstep hhalted (by simp [hrun])
    exact ⟨w, opd, iFetch_pred_of_step hstep rfl hfetch, hdecode⟩
  · intro herrored
    obtain ⟨hfetch, rfl⟩ | ⟨w, opc, hfetch, hdecode, rfl⟩ | ⟨w, i, hfetch, hdecode, hdata, hillegal, rfl⟩ :=
      step_reaches_errored hstep herrored (by simp [hrun])
    · exact ⟨rfl, (iFetch_eq_none_iff s s.pc).1 hfetch⟩
    · obtain ⟨hopc, houtside⟩ := decode_eq_error_iff.1 hdecode
      exact ⟨houtside, w, iFetch_pred_of_step hstep rfl hfetch, hopc⟩
    · obtain ⟨hopc, hopd⟩ := decode_eq_ok_iff.1 hdecode
      refine ⟨fun hlegal => ?_, w, iFetch_pred_of_step hstep rfl hfetch, hopd, ?_⟩
      · exact absurd ((dataAddressLegal_iff _).2 hlegal) (Bool.eq_false_iff.1 hillegal)
      · rw [hopc]
        exact ⟨(sint_opcode_bounds i).1, (isData_iff i).1 hdata⟩

/-- Settles O50: a start is not final, a step from RUNNING records what ended the run, and a final state is frozen. -/
theorem endOfRunRecordIsTruthful : Obligations.EndOfRunRecordIsTruthful := by
  refine ⟨fun l => ⟨nofun, nofun⟩, fun s t hs hstep => ?_⟩
  by_cases hrun : s.run = .running
  · exact step_endTruthful_of_running hrun hstep
  · rw [step_of_not_running hrun] at hstep
    cases hstep
    exact hs

end Sys2Proof.Proofs

/-! ## Words and cells: arithmetic, writes, the canonical Data Store, the data port (20_memory.md R55 to R60) -/

namespace Sys2Proof.Proofs

open Sys2Proof.Machine Sys2Proof.Laws

/-- Settles O18: `addW` and `subW` are the sum and the difference of bit vectors, which `bv` takes from
either reading. -/
theorem arithmeticIsSignAgnostic : Obligations.ArithmeticIsSignAgnostic := by
  intro n a b
  rw [addW_eq, subW_eq, subW_eq, addW_eq]
  refine ⟨?_, ?_, BitVec.add_sub_cancel a b, BitVec.sub_add_cancel a b, BitVec.toNat_add a b, sub_eq_zero⟩
  · rw [bv, BitVec.ofInt_add, BitVec.ofInt_toInt, BitVec.ofInt_toInt]
  · apply BitVec.eq_of_toInt_eq
    rw [bv, BitVec.toInt_ofInt, BitVec.toInt_sub]

/-- Settles O19: it is the law of reads after writes. -/
theorem readAfterWrite : Obligations.ReadAfterWrite := fun _ m a b v => read_write m a b v

/-- The parts of a canonical memory with a first entry: the entry, and what follows it from the next address up. -/
theorem wfFrom_cons_iff {n lo : Nat} {e : Nat × BitVec n} {m : Memory n} :
    Memory.wfFrom lo (e :: m) = true ↔
      lo ≤ e.1 ∧ e.1 < Config.dsSize ∧ e.2 ≠ 0 ∧ Memory.wfFrom (e.1 + 1) m = true := by
  simp only [Memory.wfFrom, Bool.and_eq_true, decide_eq_true_eq, and_assoc]

/-- The first address of a canonical memory is not above one where it reads another value than 0. -/
theorem first_le_of_read_ne_zero {n lo a : Nat} {e : Nat × BitVec n} {m : Memory n}
    (hm : Memory.wfFrom lo (e :: m) = true) (hread : Memory.read (e :: m) a ≠ 0) : e.1 ≤ a := by
  obtain ⟨-, hsize, hvalue, hrest⟩ := wfFrom_cons_iff.1 hm
  by_contra hlt
  exact hread (read_of_wfFrom (wfFrom_cons_iff.2 ⟨le_refl e.1, hsize, hvalue, hrest⟩) (by omega))

/-- Canonical memories that read alike are the same list, by induction on one: the first entries agree, since neither
memory reads another value than 0 below its first, and what follows them reads alike. -/
theorem eq_of_wfFrom_of_read_eq {n : Nat} (m : Memory n) : ∀ {m' : Memory n} {lo lo' : Nat},
    Memory.wfFrom lo m = true → Memory.wfFrom lo' m' = true → (∀ a, Memory.read m a = Memory.read m' a) → m = m' := by
  have hread_first : ∀ (e : Nat × BitVec n) (r : Memory n), Memory.read (e :: r) e.1 = e.2 := fun e r => if_pos rfl
  induction m with
  | nil =>
    intro m' lo lo' _ hm' hread
    cases m' with
    | nil => rfl
    | cons e' r' =>
      obtain ⟨-, -, hvalue', -⟩ := wfFrom_cons_iff.1 hm'
      exact absurd ((hread e'.1).trans (hread_first e' r')).symm hvalue'
  | cons e r ih =>
    intro m' lo lo' hm hm' hread
    obtain ⟨-, -, hvalue, hrest⟩ := wfFrom_cons_iff.1 hm
    cases m' with
    | nil => exact absurd ((hread_first e r).symm.trans (hread e.1)) hvalue
    | cons e' r' =>
      obtain ⟨-, -, hvalue', hrest'⟩ := wfFrom_cons_iff.1 hm'
      have hle : e'.1 ≤ e.1 := first_le_of_read_ne_zero hm' (by rwa [← hread, hread_first])
      have hge : e.1 ≤ e'.1 := first_le_of_read_ne_zero hm (by rwa [hread, hread_first])
      have haddr : e.1 = e'.1 := by omega
      have hcell : e.2 = e'.2 := by rw [← hread_first e r, hread, haddr, hread_first]
      have htail : r = r' := by
        refine ih hrest hrest' fun a => ?_
        by_cases ha : e.1 = a
        · rw [read_of_wfFrom hrest (by omega), read_of_wfFrom hrest' (by omega)]
        · have hreada := hread a
          rwa [read_cons, read_cons, if_neg ha, if_neg (haddr ▸ ha)] at hreada
      rw [Prod.ext haddr hcell, htail]

/-- Settles O20: a write in range keeps the form, and its uniqueness is over every lower bound. -/
theorem canonicalMemoryIsKeptAndUnique : Obligations.CanonicalMemoryIsKeptAndUnique :=
  ⟨fun _ _ _ v hm ha => wf_write hm ha v, fun _ m _ hm hm' hread => eq_of_wfFrom_of_read_eq m hm hm' hread⟩

/-- Settles O21: the LOAD reads back the cell the STORE wrote, whatever `ACC` is between. -/
theorem storeThenLoadThenOutRoundTrip : Obligations.StoreThenLoadThenOutRoundTrip := by
  intro s opd unused hlegal
  have hread : Memory.read (Memory.write s.ds (sint opd).toNat s.acc) (sint opd).toNat = s.acc := by
    rw [read_write, if_pos rfl]
  refine ⟨_, cellFromValue_of_legal hlegal s s.acc, fun x => ⟨?_, exec_out unused _⟩⟩
  refine (accFromCell_of_legal hlegal _ _).trans ?_
  simp only [State.setAcc, State.cell, hread]

/-- A legal operand drives its four low bits, which read as the operand (20_memory.md R55). -/
theorem dataAddress_of_legal {opd : Word32} (h : dataAddressLegal opd = true) :
    dataAddress opd = some (opd.extractLsb' 0 4) ∧ uint (opd.extractLsb' 0 4) = (sint opd).toNat ∧
      uint (opd.extractLsb' 0 4) ≤ 9 := by
  have hbits : dataAddress opd = some (opd.extractLsb' 0 4) := if_pos h
  obtain ⟨a, ha, hvalue, hrange⟩ := dataAddress_legal h
  obtain rfl : opd.extractLsb' 0 4 = a := Option.some.inj (hbits.symm.trans ha)
  exact ⟨hbits, hvalue, Nat.le_of_lt_succ hrange⟩

/-- A legal operand is read at its four low bits (20_memory.md R56). -/
theorem reading_of_legal (n : Nat) {opd : Word32} (h : dataAddressLegal opd = true) :
    DmPort.reading n opd = { re := true, we := false, addr := some (opd.extractLsb' 0 4), wdata := none } := by
  rw [DmPort.reading, (dataAddress_of_legal h).1]

/-- A legal operand is written at its four low bits (20_memory.md R56). -/
theorem writing_of_legal {n : Nat} {opd : Word32} (h : dataAddressLegal opd = true) (v : BitVec n) :
    DmPort.writing opd v = { re := false, we := true, addr := some (opd.extractLsb' 0 4), wdata := some v } := by
  rw [DmPort.writing, (dataAddress_of_legal h).1]

/-- A data instruction with an illegal operand drives nothing (20_memory.md R56). -/
theorem dmPort_of_illegal {i : Instr} (hi : IsData i) (h : dataAddressLegal i.operand = false) (s : State) :
    dmPort i s = DmPort.idle s.width := by
  have hnone := dataAddress_illegal h
  cases i with
  | load opd | add opd | sub opd =>
    rw [dmPort, DmPort.reading, show dataAddress opd = none from hnone]
  | store opd => rw [dmPort, DmPort.writing, show dataAddress opd = none from hnone]
  | in_ _ | out _ | end_ _ | jmp _ | skipz _ => exact hi.elim

/-- The port in the table of R56, for an operand that passes the address check. -/
theorem dmPort_of_legal (s : State) {opd : Word32} (h : dataAddressLegal opd = true) :
    (∀ i : Instr, i = .load opd ∨ i = .add opd ∨ i = .sub opd →
      dmPort i s = { re := true, we := false, addr := some (opd.extractLsb' 0 4), wdata := none }) ∧
    dmPort (.store opd) s = { re := false, we := true, addr := some (opd.extractLsb' 0 4), wdata := some s.acc } := by
  refine ⟨?_, writing_of_legal h s.acc⟩
  rintro i (rfl | rfl | rfl) <;> exact reading_of_legal s.width h

/-- Settles O25: the table by the address check; then, effect by effect, the port drives nothing and no cell changes, or
drives the read or the write that the effect makes. -/
theorem dataPortShowsTheAccess : Obligations.DataPortShowsTheAccess := by
  refine ⟨fun s opd => ⟨fun hrange => ?_, ?_⟩, fun i s t hexec => ?_⟩
  · have hlegal := (dataAddressLegal_iff opd).2 hrange
    obtain ⟨-, hvalue, -⟩ := dataAddress_of_legal hlegal
    obtain ⟨hreads, hwrites⟩ := dmPort_of_legal s hlegal
    exact ⟨by omega, hreads _ (.inl rfl), hreads _ (.inr (.inl rfl)), hreads _ (.inr (.inr rfl)), hwrites⟩
  · rintro i (⟨hmnemonic, hrange⟩ | rfl | rfl | rfl | rfl | rfl)
    case inl =>
      obtain ⟨hdata, rfl⟩ : IsData i ∧ i.operand = opd := by
        obtain rfl | rfl | rfl | rfl := hmnemonic <;> exact ⟨trivial, rfl⟩
      exact dmPort_of_illegal hdata (Bool.eq_false_iff.2 (mt (dataAddressLegal_iff _).1 hrange)) s
    all_goals rfl
  · cases exec_eq_next_iff.1 hexec with
    | fatal hdata hillegal =>
      rw [dmPort_of_illegal hdata hillegal]
      exact ⟨nofun, fun _ _ => rfl, nofun, nofun⟩
    | @load opd hlegal =>
      obtain ⟨-, hvalue, hle⟩ := dataAddress_of_legal hlegal
      rw [(dmPort_of_legal s hlegal).1 _ (.inl rfl), ← hvalue]
      exact ⟨nofun, fun _ _ => rfl, nofun, fun _ => ⟨_, rfl, hle, .inl ⟨opd, rfl, rfl⟩⟩⟩
    | @add opd hlegal =>
      obtain ⟨-, hvalue, hle⟩ := dataAddress_of_legal hlegal
      rw [(dmPort_of_legal s hlegal).1 _ (.inr (.inl rfl)), ← hvalue]
      exact ⟨nofun, fun _ _ => rfl, nofun, fun _ => ⟨_, rfl, hle, .inr (.inl ⟨opd, rfl, rfl⟩)⟩⟩
    | @sub opd hlegal =>
      obtain ⟨-, hvalue, hle⟩ := dataAddress_of_legal hlegal
      rw [(dmPort_of_legal s hlegal).1 _ (.inr (.inr rfl)), ← hvalue]
      exact ⟨nofun, fun _ _ => rfl, nofun, fun _ => ⟨_, rfl, hle, .inr (.inr ⟨opd, rfl, rfl⟩)⟩⟩
    | @store opd hlegal =>
      obtain ⟨-, hvalue, hle⟩ := dataAddress_of_legal hlegal
      rw [(dmPort_of_legal s hlegal).2, ← hvalue]
      refine ⟨nofun, nofun, fun _ => ⟨_, rfl, hle, rfl, ?_, fun b hb => ?_⟩, nofun⟩
      · exact congrArg BitVec.toNat ((read_write s.ds _ _ s.acc).trans (if_pos rfl))
      · exact congrArg BitVec.toNat ((read_write s.ds _ b s.acc).trans (if_neg hb))
    | _ => exact ⟨nofun, fun _ _ => rfl, nofun, nofun⟩

end Sys2Proof.Proofs

/-! ## The fetch and `PC` (10_state.md R24 to R28; 20_memory.md R53, R54; 40_cycle.md R101) -/

namespace Sys2Proof.Proofs

open Sys2Proof.Machine Sys2Proof.Laws

/-- A fetch fails exactly outside `[IBASE, IBASE+N)` (20_memory.md R53). -/
theorem iFetch_eq_none_iff_range (s : State) (a : Word32) :
    s.iFetch a = none ↔ ¬ (uint s.ldBase ≤ uint a ∧ uint a < uint s.ldBase + uint s.ldCount) := by
  rw [iFetch_eq_none_iff, Bool.eq_false_iff, ne_eq, inLoadedRange_iff]

/-- In the loaded range a fetch answers the Instruction Store's word (20_memory.md R54). -/
theorem iFetch_of_inLoadedRange {s : State} {a : Word32} (h : s.inLoadedRange a = true) :
    s.iFetch a = s.imem[uint a - uint s.ldBase]? :=
  if_pos h

/-- A fetched word was at an address of the loaded range (20_memory.md R54). -/
theorem inLoadedRange_of_iFetch {s : State} {a : Word32} {w : InstrWord} (h : s.iFetch a = some w) :
    s.inLoadedRange a = true := by
  rw [← iFetch_isSome, h, Option.isSome_some]

/-- A program below `2^31` is fetched word by word from `ld_base` on, and nothing else is (20_memory.md R53). -/
theorem loaded_words_fetched {s : State} (hbound : uint s.ldBase + s.imem.length ≤ 2 ^ 31) :
    uint s.ldCount = s.imem.length ∧
    (∀ k, k < s.imem.length → s.iFetch (s.ldBase + BitVec.ofNat 32 k) = s.imem[k]?) ∧
    ∀ a : Word32, ¬ (uint s.ldBase ≤ uint a ∧ uint a < uint s.ldBase + s.imem.length) → s.iFetch a = none := by
  have hcount : uint s.ldCount = s.imem.length := uint_ldCount_eq (by omega)
  refine ⟨hcount, fun k hk => ?_, fun a ha => (iFetch_eq_none_iff_range s a).2 (hcount ▸ ha)⟩
  have haddr : uint (s.ldBase + BitVec.ofNat 32 k) = uint s.ldBase + k := by
    simp only [uint] at hbound hcount ⊢
    rw [BitVec.toNat_add, BitVec.toNat_ofNat]
    omega
  have hrange : s.inLoadedRange (s.ldBase + BitVec.ofNat 32 k) = true :=
    (inLoadedRange_iff _ _).2 (by omega)
  rw [iFetch_of_inLoadedRange hrange, haddr, Nat.add_sub_cancel_left]

/-- Settles O12: a legal launch ends at or below `2^31`. -/
theorem loadedProgramIsFetchedFromBase : Obligations.LoadedProgramIsFetchedFromBase := by
  intro l hwf
  simp only [Launch.wellFormed, Bool.and_eq_true, decide_eq_true_eq] at hwf
  obtain ⟨⟨-, hlen⟩, hbase⟩ := hwf
  exact loaded_words_fetched (s := State.start l) ((Nat.add_le_add_left hlen _).trans hbase)

/-- Settles O8: outside the loaded range the fetch answers no word. -/
theorem fetchOutsideLoadedRangeEndsRun : Obligations.FetchOutsideLoadedRangeEndsRun := fun s hrun houtside =>
  step_fetch_fails hrun ((iFetch_eq_none_iff_range s s.pc).2 houtside)

/-- No execute phase writes the transient registers (10_state.md R34). -/
theorem ExecEffect.transient {i : Instr} {s u : State} (h : ExecEffect s i u) : u.mar = s.mar ∧ u.ir = s.ir := by
  cases h <;> exact ⟨rfl, rfl⟩

/-- Settles O55: the port's inputs are those of the range check, and its address and word are what the step latches. -/
theorem fetchPortShowsTheFetch : Obligations.FetchPortShowsTheFetch := by
  intro s hrun
  refine ⟨iFetch_eq_none_iff_range s s.pc, fun w hword => ?_, ?_⟩
  · exact (iFetch_of_inLoadedRange (inLoadedRange_of_iFetch hword)).symm.trans hword
  · obtain ⟨t, hstep⟩ := step_total s
    refine ⟨t, hstep, ?_⟩
    simp only [ifPort]
    cases step_eq_next_iff.1 hstep with
    | frozen hstopped => exact absurd hrun hstopped
    | fetchFails _ hfetch => exact ⟨fun _ => ⟨rfl, rfl⟩, fun _ => ⟨rfl, by simp [hfetch]⟩⟩
    | decodeFails _ hfetch _ =>
      exact ⟨by simp [hfetch], fun _ => ⟨rfl, fun w hw => Option.some.inj (hfetch.symm.trans hw)⟩⟩
    | waits _ habout _ =>
      obtain ⟨w, hfetch, -⟩ := habout
      exact ⟨by simp [hfetch], nofun⟩
    | executes _ hfetch _ heffect _ =>
      obtain ⟨hmar, hir⟩ := heffect.transient
      exact ⟨by simp [hfetch], fun _ => ⟨hmar, fun w hw => hir.trans (Option.some.inj (hfetch.symm.trans hw))⟩⟩

/-- Settles O27: the parameters are part of the program, and `ld_count` is the length of the loaded words. -/
theorem parametersNeverChange : Obligations.ParametersNeverChange := by
  intro s t hstep
  have hprog := step_sameProgram hstep
  exact ⟨hprog.width, hprog.icap, hprog.ldBase, by rw [State.ldCount, State.ldCount, hprog.imem]⟩

/-- Where the execute phase of an instruction leaves `PC`, in the state it executes in, whose `PC` is the one after the
fetch increment (10_state.md R24). -/
def pcAfterExec (i : Instr) (s : State) : Word32 :=
  match i with
  | .jmp opd => opd
  | .skipz _ => if s.acc = 0 then s.pc + 1 else s.pc
  | .load _ | .add _ | .store _ | .sub _ | .in_ _ | .out _ | .end_ _ => s.pc

/-- Only JMP and SKIPZ have an effect on `PC` (10_state.md R24). -/
theorem ExecEffect.pc_eq {i : Instr} {s u : State} (h : ExecEffect s i u) : u.pc = pcAfterExec i s := by
  cases h with
  | @fatal i hdata =>
    cases i with
    | load | add | store | sub => rfl
    | in_ | out | end_ | jmp | skipz => exact hdata.elim
  | skips hzero => exact (if_pos hzero).symm
  | skipsNot hnonzero => exact (if_neg hnonzero).symm
  | _ => rfl

/-- An IN that does not wait had a value to take (42_io.md R160). -/
theorem ExecEffect.input_ne_nil {opd : Word32} {s u : State} (h : ExecEffect s (.in_ opd) u) (hgo : u.inWait = false) :
    s.input.isEmpty = false := by
  cases h with
  | fatal hdata => exact hdata.elim
  | inTakes hinput => rw [hinput, List.isEmpty_cons]
  | inWaits => exact absurd hgo (by simp)

/-- Settles O10: `PC` after a completed execute phase is `pcAfterExec` of the fetched state; the other ways of a step say
where they leave it. -/
theorem programCounterAfterStep : Obligations.ProgramCounterAfterStep := by
  intro s hrun
  obtain ⟨t, hstep⟩ := step_total s
  refine ⟨t, hstep, ?_⟩
  cases step_eq_next_iff.1 hstep with
  | frozen hstopped => exact absurd hrun hstopped
  | fetchFails _ hfetch => exact ⟨fun _ => rfl, by simp [hfetch]⟩
  | decodeFails _ hfetch hdecode =>
    refine ⟨by simp [hfetch], fun w hw => ?_⟩
    cases hfetch.symm.trans hw
    exact ⟨fun _ _ => rfl, by simp [hdecode]⟩
  | waits _ habout hinput =>
    obtain ⟨w, hfetch, hdecode⟩ := habout
    refine ⟨by simp [hfetch], fun w' hw => ?_⟩
    cases hfetch.symm.trans hw
    refine ⟨by simp [hdecode], fun i hi => ?_⟩
    cases hdecode.symm.trans hi
    exact (if_pos (List.isEmpty_iff.2 hinput)).symm
  | @executes w i _ _ hfetch hdecode heffect hgo =>
    refine ⟨by simp [hfetch], fun w' hw => ?_⟩
    cases hfetch.symm.trans hw
    refine ⟨by simp [hdecode], fun i' hi => ?_⟩
    cases hdecode.symm.trans hi
    have hpc := heffect.pc_eq
    cases i with
    | in_ =>
      refine hpc.trans (if_neg ?_).symm
      exact Bool.eq_false_iff.1 (heffect.input_ne_nil hgo)
    | skipz => exact hpc.trans (by simp only [pcAfterExec, fetched_pc, fetched_acc, BitVec.add_assoc]; rfl)
    | _ => exact hpc

/-- The loaded range of a legal program ends at or below `2^31` (00_scope.md R8). -/
theorem range_end_le_of_paramsOk {s : State} (h : s.paramsOk) : uint s.ldBase + uint s.ldCount ≤ 2 ^ 31 := by
  obtain ⟨-, hlen, hbase⟩ := h
  have hcount := uint_ldCount_le s
  omega

/-- A fetched word of a legal program stood below `2^31`. -/
theorem pc_lt_of_iFetch {s : State} {a : Word32} {w : InstrWord} (h : s.paramsOk) (hfetch : s.iFetch a = some w) :
    uint a < 2 ^ 31 := by
  obtain ⟨-, hlt⟩ := (inLoadedRange_iff s a).1 (inLoadedRange_of_iFetch hfetch)
  exact hlt.trans_le (range_end_le_of_paramsOk h)

/-- Below `2^31` the increments of `PC` do not wrap (10_state.md R26). -/
theorem uint_add_of_lt {a : Word32} (h : uint a < 2 ^ 31) : uint (a + 1) = uint a + 1 ∧ uint (a + 2) = uint a + 2 := by
  simp only [uint] at h ⊢
  constructor <;> bv_omega

/-- Settles O11: a fetched word stands below `2^31`, and all but a JMP leave `PC` or add 1 or 2 to it. -/
theorem programCounterNeverWraps : Obligations.ProgramCounterNeverWraps := by
  intro s t w hparams hrun hfetch hnojmp hstep
  obtain ⟨t', hstep', -, hword⟩ := programCounterAfterStep s hrun
  cases hstep.symm.trans hstep'
  obtain ⟨herror, hok⟩ := hword w hfetch
  have hpc : t.pc = s.pc ∨ t.pc = s.pc + 1 ∨ t.pc = s.pc + 2 := by
    cases hdecode : decode w with
    | error e => exact .inr (.inl (herror e hdecode))
    | ok i =>
      have hi := hok i hdecode
      cases i with
      | jmp opd => exact absurd hdecode (hnojmp opd)
      | in_ opd =>
        simp only at hi
        split_ifs at hi
        exacts [.inl hi, .inr (.inl hi)]
      | skipz opd =>
        simp only at hi
        split_ifs at hi
        exacts [.inr (.inr hi), .inr (.inl hi)]
      | _ => exact .inr (.inl hi)
  have hlt := pc_lt_of_iFetch hparams hfetch
  obtain ⟨hone, htwo⟩ := uint_add_of_lt hlt
  obtain h | h | h := hpc <;> rw [h] <;> omega

end Sys2Proof.Proofs

/-! ## The end of a run: what is fatal, what is frozen, what waits (60_exceptions.md R200; 40_cycle.md R111) -/

namespace Sys2Proof.Proofs

open Sys2Proof.Machine Sys2Proof.Laws

/-- A run at an address outside the loaded range ends with InvalidAddress and that address (40_cycle.md R101). -/
theorem step_outside_range {s : State} (hrun : s.run = .running) (h : s.inLoadedRange s.pc = false) :
    ∃ t, step s = .next t ∧ t.run = .errored ∧ t.faultCause = .invalidAddress ∧ t.faultInfo = s.pc :=
  ⟨_, step_fetch_fails hrun ((iFetch_eq_none_iff s s.pc).2 h), rfl, rfl, rfl⟩

/-- An address at or past the end of the loaded range is outside it (20_memory.md R53). -/
theorem inLoadedRange_of_end_le {s : State} {a : Word32} (h : uint s.ldBase + uint s.ldCount ≤ uint a) :
    s.inLoadedRange a = false := by
  rw [Bool.eq_false_iff, ne_eq, inLoadedRange_iff]
  omega

/-- Settles O38: an address that reads negative is `2^31` or more, where a legal program has ended. -/
theorem negativeTargetIsNeverLoaded : Obligations.NegativeTargetIsNeverLoaded := by
  intro s hparams hrun hneg
  have hhigh : 2 ^ 31 ≤ uint s.pc := by
    have hsign := BitVec.toInt_neg_iff.1 hneg
    simp only [uint]
    omega
  have houtside := inLoadedRange_of_end_le ((range_end_le_of_paramsOk hparams).trans hhigh)
  exact ⟨houtside, step_outside_range hrun houtside⟩

/-- A step that goes on to an address at or past the end of the program is followed by one that ends the run there. -/
theorem next_step_past_end {s t : State} (hstep : step s = .next t) (hrun : t.run = .running)
    (hpc : uint s.ldBase + uint s.ldCount ≤ uint t.pc) :
    ∃ u, step t = .next u ∧ u.run = .errored ∧ u.faultCause = .invalidAddress ∧ u.faultInfo = t.pc := by
  refine step_outside_range hrun (inLoadedRange_of_end_le ?_)
  rwa [(step_sameProgram hstep).ldBase, State.ldCount, (step_sameProgram hstep).imem]

/-- Settles O40: SKIPZ goes on at the address after it, or one further, which is `L` or `L + 1`. -/
theorem skipzPastTheEndFaultsAtNextFetch : Obligations.SkipzPastTheEndFaultsAtNextFetch := by
  intro s opd hparams hrun habout
  obtain ⟨t, hstep, htrun, htpc⟩ := step_skipz hrun habout
  obtain ⟨w, hfetch, -⟩ := habout
  obtain ⟨hone, htwo⟩ := uint_add_of_lt (pc_lt_of_iFetch hparams hfetch)
  constructor
  · intro hlast
    obtain ⟨u, hu⟩ := next_step_past_end hstep htrun (by rw [htpc]; split_ifs <;> omega)
    exact ⟨t, u, hstep, htrun, htpc ▸ hu⟩
  · intro hlast hacc
    rw [if_pos hacc] at htpc
    obtain ⟨u, hu⟩ := next_step_past_end hstep htrun (by rw [htpc]; omega)
    exact ⟨t, u, hstep, htrun, htpc ▸ hu⟩

/-- A step of a fetched word does not end in ERRORED where its opcode is one of the table's and its operand, for a data
instruction, is a data address (60_exceptions.md R200). -/
theorem step_not_errored {s t : State} {opc opd : Word32} (hrun : s.run = .running)
    (hfetch : s.iFetch s.pc = some (opc ++ opd)) (hopc : 1 ≤ sint opc ∧ sint opc ≤ 9)
    (hopd : sint opc ≤ 4 → 0 ≤ sint opd ∧ sint opd ≤ 9) (hstep : step s = .next t) : t.run ≠ .errored := by
  intro herrored
  obtain ⟨i, hi⟩ := (exists_decode_append_iff opc opd).2 hopc
  obtain ⟨hnone, -⟩ | ⟨w, e, hw, hdecode, -⟩ | ⟨w, j, hw, hdecode, hdata, hillegal, -⟩ :=
    step_reaches_errored hstep herrored (by simp [hrun])
  · exact absurd (hfetch.symm.trans hnone) (by simp)
  · cases hfetch.symm.trans hw
    exact absurd (hi.symm.trans hdecode) (by simp)
  · cases hfetch.symm.trans hw
    obtain ⟨rfl, rfl⟩ := decode_append_eq_ok_iff.1 hdecode
    have hlegal := (dataAddressLegal_iff _).2 (hopd ((isData_iff j).1 hdata))
    exact absurd (hlegal.symm.trans hillegal) (by simp)

/-- Settles O42: the first three clauses are the three fatal steps, the last that no other step is fatal. -/
theorem exactlyThreeFatalConditions : Obligations.ExactlyThreeFatalConditions := by
  intro s t hrun hstep
  refine ⟨fun houtside => ?_, fun opc opd hfetch => ⟨fun hopc => ?_, ?_, fun hgood => ?_⟩⟩
  · obtain ⟨t', hstep', hrecord⟩ := step_outside_range hrun houtside
    cases hstep.symm.trans hstep'
    exact hrecord
  · cases hstep.symm.trans (unknownOpcodeEndsRun s opc opd hrun hfetch hopc)
    exact ⟨rfl, rfl, rfl⟩
  · rintro ⟨hlow, hhigh, hopd⟩
    obtain ⟨i, hi⟩ := (exists_decode_append_iff opc opd).2 (by omega)
    obtain ⟨rfl, rfl⟩ := decode_append_eq_ok_iff.1 hi
    have hexec := exec_of_illegal ((isData_iff i).2 hhigh) hopd (s.fetched (i.opcode ++ i.operand) i)
    cases hstep.symm.trans (step_of_exec_next hrun hfetch hi hexec (by simp))
    exact ⟨rfl, rfl, rfl⟩
  · exact step_not_errored hrun hfetch (by omega) (by omega) hstep

/-- A final state is not RUNNING (40_cycle.md R111). -/
theorem run_ne_running_of_final {s : State} (h : s.final) : s.run ≠ .running := by
  obtain h | h := h <;> simp [h]

/-- Settles O43, by induction on the number of steps: each answers the state it began in. -/
theorem finalStateNeverChanges : Obligations.FinalStateNeverChanges := by
  intro s k hfinal
  have hstep := step_of_not_running (run_ne_running_of_final hfinal)
  induction k with
  | zero => exact run_zero s
  | succ k ih => exact (run_succ k hstep).trans ih

/-- Settles O29: it is the step that is taken back. -/
theorem inWithoutInputWaits : Obligations.InWithoutInputWaits := fun _ _ => step_of_in_waits

/-- A stuck run is still RUNNING (40_cycle.md R111). -/
theorem running_of_stuck {s : State} (h : s.stuck) : s.run = .running := by
  obtain ⟨hrun, -, -⟩ := h
  exact hrun

/-- The step of a stuck state only turns the wait bit on (40_cycle.md R111). -/
theorem step_of_stuck {s : State} (h : s.stuck) : step s = .next s.setInWait := by
  obtain ⟨hrun, ⟨opd, habout⟩, hinput⟩ := h
  exact step_of_in_waits hrun habout hinput

/-- The wait bit is no part of what makes a state stuck. -/
theorem stuck_setInWait {s : State} (h : s.stuck) : s.setInWait.stuck := h

/-- Steps of a stuck state commit nothing, by induction on their number: the first turns the wait bit on, the others
keep it (40_cycle.md R111). -/
theorem run_succ_of_stuck (k : Nat) {s : State} (h : s.stuck) :
    Sys2Proof.core.run (k + 1) s = .next s.setInWait := by
  induction k generalizing s with
  | zero => exact run_succ 0 (step_of_stuck h)
  | succ k ih => exact (run_succ (k + 1) (step_of_stuck h)).trans (ih (stuck_setInWait h))

/-- Settles O30: a stuck state stays RUNNING, so it is not final. -/
theorem stuckRunNeverCommits : Obligations.StuckRunNeverCommits := fun _ k hstuck =>
  ⟨run_succ_of_stuck k hstuck, stuck_setInWait hstuck,
    fun hfinal => run_ne_running_of_final hfinal (running_of_stuck hstuck)⟩

/-- The observations of a run begin with that of its first boundary (60_exceptions.md R222). -/
theorem observations_succ (k : Nat) {s t : State} (h : step s = .next t) :
    observations (k + 1) s = s.observe.toList ++ observations k t := by
  rw [observations, h]

/-- A state that retries an IN shows no boundary (60_exceptions.md R222). -/
theorem observe_of_inWait {s : State} (h : s.inWait = true) : s.observe = none := by
  cases hrun : s.run <;> simp [State.observe, hrun, h]

/-- A boundary of a running state that retries nothing is observed (60_exceptions.md R222). -/
theorem observe_of_running {s : State} (hrun : s.run = .running) (h : s.inWait = false) :
    s.observe = some s.snapshot := by
  simp [State.observe, hrun, h]

/-- The retries of a stuck state are not observed, by induction on their number (decision D16). -/
theorem observations_of_retries (k : Nat) {s : State} (h : s.stuck) : observations k s.setInWait = [] := by
  induction k with
  | zero => rfl
  | succ k ih =>
    have hstep : step s.setInWait = .next s.setInWait := step_of_stuck (stuck_setInWait h)
    rw [observations_succ k hstep, observe_of_inWait (setInWait_inWait s), ih]
    rfl

/-- Settles O53: the first attempt is observed, its retries are not. -/
theorem waitingBoundaryIsObservedOnce : Obligations.WaitingBoundaryIsObservedOnce := by
  intro s k hstuck hwait
  rw [observations_succ k (step_of_stuck hstuck), observations_of_retries k hstuck,
    observe_of_running (running_of_stuck hstuck) hwait]
  rfl

/-- Settles O7: `u` is the fetched state, and the three outcomes are those of `commit`. -/
theorem stepRunsDecodedInstruction : Obligations.StepRunsDecodedInstruction := by
  rintro s w i hrun hfetch hdecode - u rfl
  have hstep : step s = commit s (exec i (s.fetched w i)) := step_executes hrun hfetch hdecode
  refine ⟨fun t hexec hgo => ?_, fun t hexec hwait => ?_, fun e hexec => ?_, fun r hexec => ?_⟩
  · exact step_of_exec_next hrun hfetch hdecode hexec hgo
  · exact (hstep.trans (congrArg _ hexec)).trans (commit_of_wait s hwait)
  · exact hstep.trans (congrArg _ hexec)
  · exact hstep.trans (congrArg _ hexec)

/-- Settles O28: the two ways of IN, and the row of its opcode. -/
theorem inTakesHeadOfInput : Obligations.InTakesHeadOfInput := fun _ opd =>
  ⟨decode_append_of_sint_eq (.in_ opd) rfl, fun _ _ => execIn_cons, execIn_nil⟩

/-- Settles O34: the dispatcher hands the four no operand. -/
theorem unusedOperandIsIgnored : Obligations.UnusedOperandIsIgnored := fun _ _ _ => ⟨rfl, rfl, rfl, rfl⟩

end Sys2Proof.Proofs

/-! ## Reset, loading and the status codes (70_reset_and_hazards.md R240 to R244; 10_state.md R30, R31) -/

namespace Sys2Proof.Proofs

open Sys2Proof.Machine Sys2Proof.Laws

/-- Settles O44: a start is written out by `State.start`, and the Data Store a reset leaves is the empty list. -/
theorem resetLeavesTheStartState : Obligations.ResetLeavesTheStartState :=
  ⟨fun _ => ⟨rfl, rfl, rfl, rfl, rfl, rfl, rfl, rfl, rfl, read_nil⟩,
    fun s acc0 hwait => ⟨[], read_nil, (applyReset_next_iff s _ acc0).2 ⟨hwait, rfl⟩⟩⟩

/-- The load after a run, in one equation (60_exceptions.md R223; 93_implementation_defined.md). -/
theorem loadStore_of_final {s : State} (h : s.final) (base : Word32) (words : List InstrWord) :
    s.loadStore base words =
      if s.icap < words.length then .refused .loadExceedsCapacity
      else if 2 ^ 31 < uint base + s.icap then .refused .loadBaseTooHigh
      else .next { s with ldBase := base, imem := words } := by
  obtain h | h := h <;> simp only [State.loadStore, h]

/-- Settles O45: both refusals come before anything else. -/
theorem resetDuringWaitIsRefused : Obligations.ResetDuringWaitIsRefused := fun s _ _ _ =>
  ⟨fun hwait => if_pos hwait, fun hrun => by simp only [State.loadStore, hrun]⟩

/-- Settles O54: the accepted load leaves a program below `2^31`, which the reset keeps and points `PC` at. -/
theorem loadAfterARunReplacesTheProgram : Obligations.LoadAfterARunReplacesTheProgram := by
  intro s base words hfinal
  rw [loadStore_of_final hfinal]
  refine ⟨fun hlen hbase => ⟨?_, fun acc0 hwait => ?_⟩, fun hlen => if_pos hlen, fun hlen hbase => ?_⟩
  · rw [if_neg (by omega), if_neg (by omega)]
  · have hreset := (applyReset_next_iff { s with ldBase := base, imem := words } _ acc0).2 ⟨hwait, rfl⟩
    refine ⟨_, hreset, rfl, rfl, rfl, ?_⟩
    exact loaded_words_fetched ((Nat.add_le_add_left hlen _).trans hbase)
  · rw [if_neg (by omega), if_pos hbase]

/-- The codes of the run states tell them apart (10_state.md R30). -/
theorem runState_code_injective : Function.Injective RunState.code := by
  intro a b
  cases a <;> cases b <;> decide

/-- The codes of the causes tell them apart (10_state.md R31). -/
theorem faultCause_code_injective : Function.Injective FaultCause.code := by
  intro a b
  cases a <;> cases b <;> decide

/-- Settles O46: the codes are the spec's numbers, which differ. -/
theorem statusCodesAreTheSpecs : Obligations.StatusCodesAreTheSpecs :=
  ⟨rfl, rfl, rfl, rfl, rfl, rfl, rfl, fun _ _ h => runState_code_injective h,
    fun _ _ h => faultCause_code_injective h⟩

/-- A state that is not waiting has a coherent wait bit (10_state.md R37). -/
theorem waitOk_of_not_waiting {s : State} (h : s.inWait = false) : s.waitOk := fun hwait =>
  absurd (h.symm.trans hwait) (by simp)

/-- The start of every legal launch meets the invariant. -/
theorem start_inv {l : Launch} (h : l.wellFormed = true) : (State.start l).Inv := by
  simp only [Launch.wellFormed, Bool.and_eq_true, decide_eq_true_eq, and_assoc] at h
  exact ⟨h, wf_nil, recordOk_of_clear nofun rfl rfl, waitOk_of_not_waiting rfl⟩

/-- Settles O47: the launch of `State.reset` is legal too. -/
theorem invariantHoldsAtReset : Obligations.InvariantHoldsAtReset :=
  ⟨start_inv (l := Config.resetLaunch) (by decide), fun _ => start_inv⟩

/-- Settles O49: presenting a value touches no part of the invariant, a reset clears the record and the Data Store, and a
load is accepted only after a run, for a program that is legal. -/
theorem hostMovesKeepInvariant : Obligations.HostMovesKeepInvariant := by
  refine ⟨fun s v hs => ?_, fun s t acc0 hs hreset => ?_, fun s t base words hs hload => ?_⟩
  all_goals obtain ⟨hparams, hds, hrecord, hwait⟩ := hs
  · exact ⟨hparams, hds, hrecord, hwait⟩
  · obtain ⟨hnotWaiting, rfl⟩ := (applyReset_next_iff s t acc0).1 hreset
    exact ⟨hparams, wf_nil, recordOk_of_clear nofun rfl rfl, waitOk_of_not_waiting hnotWaiting⟩
  · obtain ⟨hrun, hlen, hbase, rfl⟩ := (loadStore_next_iff s t base words).1 hload
    obtain ⟨hwidth, -, -⟩ := hparams
    exact ⟨⟨hwidth, hlen, hbase⟩, hds, hrecord, fun hw => absurd (hwait hw).1 hrun⟩

end Sys2Proof.Proofs
